-- ==== Sys2Proof/Word.lean ====
section
/-! DEFINITION. The widths of the block's values (spec/00_scope.md R8, R10). -/

namespace Sys2Proof

/-- One byte of a buffer or of a text (R14). -/
abbrev Byte := BitVec 8

/-- One 32-bit register word, bus value or command word (R8, R70). -/
abbrev Word := BitVec 32

/-- A 64-bit value held as a `_LO`/`_HI` pair: step size, step index, clock reading (R8). -/
abbrev DWord := BitVec 64

/-- A byte offset in the 1024-byte register window: only bits [9:0] are decoded (R50, R51). -/
abbrev Offset := BitVec 10

end Sys2Proof
end

