-- ==== Sys2Proof/Syntax.lean ====
section
/-! DEFINITION. The commands of the block, one constructor per row of spec/opcode_table.json (spec/30_encoding.md R72), and the
raw fields of a command word (R71). -/

namespace Sys2Proof

/-- Where a key-consuming command takes its key from: the field KSRC (R73). -/
inductive KeySource where
  /-- KSRC = 0, `key=in`: IN_BUF[0 .. IN_LEN) -/
  | inBuf
  /-- KSRC = 1, `key=out`: OUT_BUF[0 .. OUT_LEN) -/
  | outBuf
  deriving DecidableEq, Repr

/-- The eight commands (R72). No command has an immediate or a register-number field (R74). -/
inductive Instr where
  | validate
  | decode
  | tstep
  | hmac (key : KeySource)
  | trunc
  | modc
  | code (key : KeySource)
  | totp (key : KeySource)
  deriving DecidableEq, Repr

/-- The three fields of the format CMD32, before any check (R71). -/
structure CmdFields where
  /-- bits [7:0] -/
  op : BitVec 8
  /-- bit 8 -/
  ksrc : BitVec 1
  /-- bits [31:9] -/
  rsvd : BitVec 23
  deriving DecidableEq, Repr

end Sys2Proof
end

