-- ==== Sys2Proof/WellFormed.lean ====
section
/-! DEFINITION. Which field values make a legal command word: the three conditions of spec/30_encoding.md R75. -/

namespace Sys2Proof

/-- First condition of R75: OP is one of the eight listed values. -/
def CmdFields.opListed (f : CmdFields) : Bool :=
  [0x01#8, 0x02#8, 0x10#8, 0x11#8, 0x12#8, 0x13#8, 0x14#8, 0x15#8].contains f.op

/-- Second condition of R75: every reserved bit is 0. -/
def CmdFields.rsvdZero (f : CmdFields) : Bool := f.rsvd == 0#23

/-- Third condition of R75: KSRC is 0, or OP is HMAC, CODE or TOTP. -/
def CmdFields.ksrcAllowed (f : CmdFields) : Bool :=
  f.ksrc == 0#1 || [0x11#8, 0x14#8, 0x15#8].contains f.op

/-- `legal(w)` of R75, on the fields of `w`. -/
def CmdFields.wellFormed (f : CmdFields) : Bool := f.opListed && f.rsvdZero && f.ksrcAllowed

/-- Whether a command as syntax is well formed. Every term of `Instr` is: its only operand, KSRC, has a two-valued type, and
only HMAC, CODE and TOTP carry it, so nothing that R75 forbids can be written. -/
def Instr.wellFormed (i : Instr) : Bool :=
  match i with
  | .validate => true
  | .decode => true
  | .tstep => true
  | .hmac _ => true
  | .trunc => true
  | .modc => true
  | .code _ => true
  | .totp _ => true

end Sys2Proof
end

