-- ==== Sys2Proof/Decode.lean ====
section
/-! DEFINITION. The decoder of command words, total, rejecting by name, and the encoder (spec/30_encoding.md R71 to R77). -/

namespace Sys2Proof

/-- Why a word is illegal: which condition of R75 it breaks first. Every rejected word completes with ILLEGAL_CMD. -/
inductive Reject where
  /-- OP is not a value of R72 -/
  | reservedOp
  /-- a bit of RSVD is 1 -/
  | reservedField
  /-- KSRC = 1 on a command that takes no key -/
  | keySourceNotAllowed
  deriving DecidableEq, Repr

/-- What the decoder makes of a word. -/
inductive Decoded where
  | instr (i : Instr)
  | reject (r : Reject)
  deriving DecidableEq, Repr

/-- The fields of a command word (R71). -/
def fieldsOf (w : Word) : CmdFields :=
  { op := w.extractLsb' 0 8, ksrc := w.extractLsb' 8 1, rsvd := w.extractLsb' 9 23 }

/-- `legal(w)` (R75). -/
def legal (w : Word) : Bool := (fieldsOf w).wellFormed

/-- The field KSRC read as a key source (R73). -/
def keySourceOf (b : BitVec 1) : KeySource := if b = 1#1 then .outBuf else .inBuf

/-- Whether a command takes a key, so that KSRC may be 1 (the column "KSRC allowed" of R72). -/
def Instr.takesKey (i : Instr) : Bool :=
  match i with
  | .hmac _ => true
  | .code _ => true
  | .totp _ => true
  | .validate => false
  | .decode => false
  | .tstep => false
  | .trunc => false
  | .modc => false

/-- The opcode map of R72; `k` is the key source of the commands that take one. -/
def instrOf (op : BitVec 8) (k : KeySource) : Option Instr :=
  if op = 0x01#8 then some .validate
  else if op = 0x02#8 then some .decode
  else if op = 0x10#8 then some .tstep
  else if op = 0x11#8 then some (.hmac k)
  else if op = 0x12#8 then some .trunc
  else if op = 0x13#8 then some .modc
  else if op = 0x14#8 then some (.code k)
  else if op = 0x15#8 then some (.totp k)
  else none

/-- The decoder (R75): total, each illegal word rejected by name. -/
def decode (w : Word) : Decoded :=
  match instrOf (fieldsOf w).op (keySourceOf (fieldsOf w).ksrc) with
  | none => .reject .reservedOp
  | some i =>
    if (fieldsOf w).rsvd ≠ 0#23 then .reject .reservedField
    else if (fieldsOf w).ksrc = 1#1 ∧ i.takesKey = false then .reject .keySourceNotAllowed
    else .instr i

/-- The OP value of a command (R72). -/
def Instr.op (i : Instr) : BitVec 8 :=
  match i with
  | .validate => 0x01#8
  | .decode => 0x02#8
  | .tstep => 0x10#8
  | .hmac _ => 0x11#8
  | .trunc => 0x12#8
  | .modc => 0x13#8
  | .code _ => 0x14#8
  | .totp _ => 0x15#8

/-- The bit KSRC of a key source (R73). -/
def KeySource.bit (k : KeySource) : BitVec 1 :=
  match k with
  | .inBuf => 0#1
  | .outBuf => 1#1

/-- The bit KSRC of a command: 0 for those that take no key (R73, R75). -/
def Instr.ksrcBit (i : Instr) : BitVec 1 :=
  match i with
  | .hmac k => k.bit
  | .code k => k.bit
  | .totp k => k.bit
  | .validate => 0#1
  | .decode => 0#1
  | .tstep => 0#1
  | .trunc => 0#1
  | .modc => 0#1

/-- The encoder: `w = zext_32(OP) | (KSRC << 8)` (R77). -/
def encode (i : Instr) : Word := i.op.setWidth 32 ||| i.ksrcBit.setWidth 32 <<< 8

/-- The command word that the low `nbits` bits of `w` stand for: a command is one 32-bit word, so a table word is the word
itself and the bits above `nbits` are 0 (R70). -/
def tableWord (nbits w : Nat) : Word := BitVec.ofNat 32 (w % 2 ^ nbits)

/-- The command the decoder reads from a word numbered as spec/opcode_table.json numbers it. -/
def decodeTableWord (nbits w : Nat) : Option Instr :=
  match decode (tableWord nbits w) with
  | .instr i => some i
  | .reject _ => none

end Sys2Proof
end

