-- ==== Sys2Proof/Machine/Codec.lean ====
section
/-! DEFINITION. The Base32 codec: symbol values, the text checks, the bit stream and the output bytes
(spec/40_base32.md R85 to R92), and the running register that gives the same bytes (R95). -/

namespace Sys2Proof.Machine

/-- `upper(b)`: 'a' to 'z' minus 0x20, every other byte as it is (R14, R87). -/
def upper (b : Byte) : Byte :=
  if 0x61 ≤ b.toNat ∧ b.toNat ≤ 0x7A then b - 0x20#8 else b

/-- `val(b)`: the 5-bit value of a Base32 symbol; `none` is NONE (R85). -/
def symbolValue (b : Byte) : Option (BitVec 5) :=
  if 0x41 ≤ b.toNat ∧ b.toNat ≤ 0x5A then some (BitVec.ofNat 5 (b.toNat - 0x41))
  else if 0x32 ≤ b.toNat ∧ b.toNat ≤ 0x37 then some (BitVec.ofNat 5 (b.toNat - 0x32 + 26))
  else none

/-- `ascii(t)`: every byte is below 0x80 (R86). -/
def asciiText (t : List Byte) : Bool := t.all fun b => decide (b.toNat < 0x80)

/-- `map(upper, t)` (R87). -/
def upperText (t : List Byte) : List Byte := t.map upper

/-- The alphabet check on an upper-cased text (R88). -/
def inAlphabet (u : List Byte) : Bool := u.all fun b => (symbolValue b).isSome

/-- The five bits of a symbol, bit 4 first; a byte out of the alphabet has none (R91). -/
def symbolBits (b : Byte) : List Bool :=
  match symbolValue b with
  | some v => [v.getLsbD 4, v.getLsbD 3, v.getLsbD 2, v.getLsbD 1, v.getLsbD 0]
  | none => []

/-- The bit stream `B` of an upper-cased text, symbols in left-to-right order (R91). -/
def bitStream (u : List Byte) : List Bool := u.flatMap symbolBits

/-- The byte whose bits are given, bit 7 first (R92). -/
def byteOfBits (b7 b6 b5 b4 b3 b2 b1 b0 : Bool) : Byte :=
  BitVec.ofBool b7 ++ BitVec.ofBool b6 ++ BitVec.ofBool b5 ++ BitVec.ofBool b4
    ++ BitVec.ofBool b3 ++ BitVec.ofBool b2 ++ BitVec.ofBool b1 ++ BitVec.ofBool b0

/-- The whole bytes of a bit stream, left to right; bits that complete no byte are dropped (R92). -/
def packBytes (bits : List Bool) : List Byte :=
  match bits with
  | b7 :: b6 :: b5 :: b4 :: b3 :: b2 :: b1 :: b0 :: rest =>
    byteOfBits b7 b6 b5 b4 b3 b2 b1 b0 :: packBytes rest
  | _ => []

/-- The bytes DECODE gives for an upper-cased text over the alphabet (R92). -/
def decodedBytes (u : List Byte) : List Byte := packBytes (bitStream u)

/-- The running register of R95 from one point of the loop on: `space` bits are free in `cur`, and the result is what is
emitted from here. A byte out of the alphabet is passed over; R95 is run on texts that have none. -/
def runningRegister (space : Nat) (cur : Byte) (u : List Byte) : List Byte :=
  match u with
  | [] => []
  | b :: rest =>
    match symbolValue b with
    | none => runningRegister space cur rest
    | some v5 =>
      let v := v5.setWidth 8
      if 5 ≤ space then
        let cur' := cur ||| v <<< (space - 5)
        if space - 5 = 0 then cur' :: runningRegister 8 0#8 rest
        else runningRegister (space - 5) cur' rest
      else
        let k := 5 - space
        (cur ||| v >>> k) :: runningRegister (8 - k) (v <<< (8 - k)) rest

end Sys2Proof.Machine
end

