-- ==== Sys2Proof/Config.lean ====
section
/-! DEFINITION. What a clock sample is, and the FREE VALUES: what the spec leaves open
(spec/93_implementation_defined.md section 1). A free value is an opaque constant applied to a number, so that nothing can
compute it and a proved claim holds whatever it is (log entry 1). -/

namespace Sys2Proof

/-- What one `ClockSample()` returns (R13, R152): whole Unix seconds, or a time before the epoch. -/
inductive ClockReading where
  | secs (t : DWord)
  | beforeEpoch
  deriving DecidableEq, Repr, Inhabited

/-- The byte at an address of a buffer that nothing has written since fill `n`: unspecified (U2, U3, U4; R37, R38, R97, R166). -/
opaque Config.freeByte (n addr : Nat) : Byte

/-- The value of a read of a result register while `SEQ = BUSY`: unspecified, a fresh draw on every read (U1; R65, R179). -/
opaque Config.freeWord (n : Nat) : Word

/-- A clock sample on which no premise is placed: any reading, with no law between samples (U5; R152). -/
opaque Config.freeClock (n : Nat) : ClockReading

/-- A command's LATENCY on which no premise is placed: any finite number of host accesses (U6; R177). -/
opaque Config.freeLatency (n : Nat) : Nat

end Sys2Proof
end

