-- ==== Sys2Proof/Machine/State.lean ====
section
/-! DEFINITION. The state of the block, whole (spec/10_state.md R18 to R41), the host's and the environment's pending actions
(spec/00_scope.md R17), the reasons a step can stop, and the state after reset (spec/70_reset_and_hazards.md R166). -/

namespace Sys2Proof.Machine

/-- The engine sequencer SEQ (R19). -/
inductive SeqState where
  /-- no command is executing -/
  | idle
  /-- a command has been accepted and not yet completed -/
  | busy
  /-- a fatal fault was taken, and only reset leaves this state -/
  | faulted
  deriving DecidableEq, Repr

/-- The result codes (R146). ECODE 8 to 14 are never produced, so they have no constructor. -/
inductive ECode where
  | ok
  | nonAscii
  | invalidChar
  | illegalCmd
  | badLength
  | badStep
  | badDigits
  | noKey
  | clockBeforeEpoch
  deriving DecidableEq, Repr

/-- The five words DIGEST0 to DIGEST4 that hold the 20 digest bytes (R36). -/
structure Digest where
  w0 : Word
  w1 : Word
  w2 : Word
  w3 : Word
  w4 : Word
  deriving DecidableEq, Repr

/-- What the host and the environment do, each one step of theirs (R17, R78, R79). -/
inductive Action where
  /-- `W off, v`: MemWrite (R66) -/
  | write (off : Offset) (v : Word)
  /-- `R off`: MemRead (R65) -/
  | read (off : Offset)
  /-- `WAIT`: read STATUS until bit 0 is 0 (R79) -/
  | wait
  /-- `CLK`: the premise that the next clock sample returns `r` (R78) -/
  | clk (r : ClockReading)
  /-- the premise that the next accepted command's LATENCY is `n` (R177) -/
  | latency (n : Nat)
  /-- the environment asserts and releases `rst` (R165) -/
  | rst
  deriving DecidableEq, Repr

/-- The bytes of the two buffers that hold a known value: (byte offset, byte) pairs, offsets strictly rising. An offset that is
not listed holds no known value (log entry 20). -/
abbrev Memory := List Host.Cell

/-- The state of the block and of its two surrounding agents. Plain data. -/
structure State where
  /-- SEQ (R19); STATUS.BUSY and STATUS.FAULT are views of it -/
  seq : SeqState
  /-- CUR_CMD, the latched command word (R40) -/
  curCmd : Word
  /-- STATUS.DONE (R24) -/
  done : Bool
  /-- STATUS.ERR (R24) -/
  err : Bool
  /-- STATUS.ECODE (R24, R146) -/
  ecode : ECode
  /-- STATUS.OVR (R25) -/
  ovr : Bool
  /-- STATUS.KVALID (R26) -/
  kvalid : Bool
  /-- IN_LEN[15:0] (R27) -/
  inLen : BitVec 16
  /-- OUT_LEN[15:0] (R28) -/
  outLen : BitVec 16
  /-- DIGITS[7:0] (R29) -/
  digits : BitVec 8
  /-- STEP_SIZE_HI ++ STEP_SIZE_LO (R30) -/
  stepSize : DWord
  /-- COUNTER_HI ++ COUNTER_LO (R31) -/
  counter : DWord
  /-- TIME_HI ++ TIME_LO (R32) -/
  time : DWord
  /-- REMAIN[7:0] (R33) -/
  remain : BitVec 8
  /-- TRUNC[30:0] (R34) -/
  trunc : BitVec 31
  /-- CODE (R35) -/
  code : Word
  /-- DIGEST0 to DIGEST4 (R36) -/
  digest : Digest
  /-- IN_BUF and OUT_BUF: the bytes with a known value (R37, R38) -/
  mem : Memory
  /-- the model's own: which fill IN_BUF's other bytes come from (log entry 2) -/
  inFill : Nat
  /-- the model's own: which fill OUT_BUF's other bytes come from (log entries 2 and 3) -/
  outFill : Nat
  /-- the model's own: how many free values have been used (log entry 1) -/
  draws : Nat
  /-- the pending actions of the host and the environment, the first next (log entry 8) -/
  actions : List Action
  /-- what the host's reads have returned, the newest first (log entry 10) -/
  reads : List Word
  /-- host accesses still to come before the engine's completion step (R177; log entry 6) -/
  delay : Nat
  /-- a premise on the next accepted command's LATENCY (R177; log entry 6) -/
  latNext : Option Nat
  /-- a premise on the next clock sample (R78 `CLK`, R152; log entry 5) -/
  clkNext : Option ClockReading
  deriving DecidableEq, Repr

/-- Why the machine stops with a fault. -/
inductive Fault where
  /-- raised by a host access (`Action.read`, `Action.write`) at an offset with bits [1:0] ≠ 0 (R54: "A model treats a bus error
  as a fault of the host's access"). SAFE: the model stops where the block goes on unchanged (log entry 9). -/
  | busError (off : Offset)
  deriving DecidableEq, Repr

/-- Why the machine refuses. -/
inductive Refusal where
  /-- raised by an arm of `exec` whose instruction has no meaning yet. SAFE. No arm of this model raises it. -/
  | notModelled (mnemonic : String)
  deriving DecidableEq, Repr

/-- The block right after reset (R166), with nothing pending. The buffers list no known byte, so every byte of them is free
(R166, R168). CUR_CMD is unspecified and read by nothing: 0 is the model's choice (log entry 4). -/
def State.reset : State where
  seq := .idle
  curCmd := 0#32
  done := false
  err := false
  ecode := .ok
  ovr := false
  kvalid := false
  inLen := 0#16
  outLen := 0#16
  digits := 6#8
  stepSize := 30#64
  counter := 0#64
  time := 0#64
  remain := 0#8
  trunc := 0#31
  code := 0#32
  digest := ⟨0#32, 0#32, 0#32, 0#32, 0#32⟩
  mem := []
  inFill := 0
  outFill := 0
  draws := 1
  actions := []
  reads := []
  delay := 0
  latNext := none
  clkNext := none

end Sys2Proof.Machine
end

