-- ==== Sys2Proof/Machine/Memory.lean ====
section
/-! DEFINITION. The operations over the buffers' cells, their canonical form, and the byte order of a word
(spec/20_memory.md R52). -/

namespace Sys2Proof.Machine

/-- The canonical form: offsets strictly rising, each inside IN_BUF or OUT_BUF. An unlisted offset reads as no value, so no
entry can equal what an unlisted one reads as. -/
abbrev Memory.wf (m : Memory) : Prop :=
  m.Pairwise (fun c d => c.1 < d.1) ∧ ∀ c ∈ m, 0x100 ≤ c.1 ∧ c.1 < 0x300

/-- The known byte at an offset, if there is one. -/
def Memory.lookup (m : Memory) (a : Nat) : Option Byte :=
  match m with
  | [] => none
  | (b, v) :: rest => if a = b then some v else Memory.lookup rest a

/-- Give an offset a known byte, in order of offsets. -/
def Memory.put (m : Memory) (a : Nat) (v : Byte) : Memory :=
  match m with
  | [] => [(a, v)]
  | (b, w) :: rest =>
    if a < b then (a, v) :: (b, w) :: rest
    else if a = b then (a, v) :: rest
    else (b, w) :: Memory.put rest a v

/-- Give the offsets from `a` on the known bytes `vs`, in ascending order. -/
def Memory.putBytes (m : Memory) (a : Nat) (vs : List Byte) : Memory :=
  match vs with
  | [] => m
  | v :: rest => Memory.putBytes (m.put a v) (a + 1) rest

/-- Forget what is known of the offsets lo to hi - 1. -/
def Memory.forget (m : Memory) (lo hi : Nat) : Memory :=
  m.filter fun c => !(decide (lo ≤ c.1) && decide (c.1 < hi))

/-- Byte lane `i` of a word: bits [8i+7 : 8i] (R52). -/
def laneByte (w : Word) (i : Nat) : Byte := w.extractLsb' (8 * i) 8

/-- The word whose byte lanes are `b0` to `b3`, lane 0 least significant (R52). -/
def packLanes (b0 b1 b2 b3 : Byte) : Word := b3 ++ b2 ++ b1 ++ b0

/-- The low half of a 64-bit register pair, its `_LO` word (R52). -/
def loWord (x : DWord) : Word := x.extractLsb' 0 32

/-- The high half of a 64-bit register pair, its `_HI` word (R52). -/
def hiWord (x : DWord) : Word := x.extractLsb' 32 32

/-- A 64-bit pair with its `_LO` word written and the other half kept (R52, R182). -/
def withLo (x : DWord) (v : Word) : DWord := hiWord x ++ v

/-- A 64-bit pair with its `_HI` word written and the other half kept (R52, R182). -/
def withHi (x : DWord) (v : Word) : DWord := v ++ loWord x

/-- Digest word `k`, the register DIGEST`k` (R36). -/
def Digest.word (d : Digest) (k : Fin 5) : Word :=
  match k with
  | 0 => d.w0
  | 1 => d.w1
  | 2 => d.w2
  | 3 => d.w3
  | 4 => d.w4

/-- The digest with DIGEST`k` written (R36). -/
def Digest.withWord (d : Digest) (k : Fin 5) (v : Word) : Digest :=
  match k with
  | 0 => { d with w0 := v }
  | 1 => { d with w1 := v }
  | 2 => { d with w2 := v }
  | 3 => { d with w3 := v }
  | 4 => { d with w4 := v }

/-- `DIGEST[i]`: byte lane `i mod 4` of the word at 0x040 + 4·(i div 4) (R36). -/
def Digest.byte (d : Digest) (i : Fin 20) : Byte :=
  laneByte (d.word ⟨i.val / 4, by omega⟩) (i.val % 4)

/-- The 20 bytes of the digest, byte 0 first (R36). -/
def Digest.bytes (d : Digest) : List Byte := (List.finRange 20).map d.byte

/-- The digest words that hold a list of 20 bytes, byte 0 first (R36, R110). -/
def Digest.ofBytes (l : List Byte) : Digest :=
  let b := fun i => l.getD i 0#8
  { w0 := packLanes (b 0) (b 1) (b 2) (b 3)
    w1 := packLanes (b 4) (b 5) (b 6) (b 7)
    w2 := packLanes (b 8) (b 9) (b 10) (b 11)
    w3 := packLanes (b 12) (b 13) (b 14) (b 15)
    w4 := packLanes (b 16) (b 17) (b 18) (b 19) }

/-- What a byte offset of a buffer holds: its known byte, or the free byte of the buffer's fill (R37, R38). -/
def State.byteAt (s : State) (a : Nat) : Byte :=
  match s.mem.lookup a with
  | some v => v
  | none =>
    Config.freeByte (if 0x200 ≤ a ∧ a < 0x300 then s.outFill else s.inFill) a

/-- `IN_BUF[i]` (R37). -/
def State.inByte (s : State) (i : Nat) : Byte := s.byteAt (0x100 + i)

/-- `OUT_BUF[i]` (R38). -/
def State.outByte (s : State) (i : Nat) : Byte := s.byteAt (0x200 + i)

/-- `IN_BUF[0 .. n)`, byte 0 first (R67). -/
def State.inBytes (s : State) (n : Nat) : List Byte := (List.range n).map s.inByte

/-- `OUT_BUF[0 .. n)`, byte 0 first (R67). -/
def State.outBytes (s : State) (n : Nat) : List Byte := (List.range n).map s.outByte

/-- The buffer word at an offset: four bytes in little-endian lanes (R52). -/
def State.bufWord (s : State) (a : Nat) : Word :=
  packLanes (s.byteAt a) (s.byteAt (a + 1)) (s.byteAt (a + 2)) (s.byteAt (a + 3))

/-- The state with a word written to a buffer, four bytes in little-endian lanes (R52). -/
def State.storeWord (s : State) (a : Nat) (v : Word) : State :=
  { s with mem := s.mem.putBytes a [laneByte v 0, laneByte v 1, laneByte v 2, laneByte v 3] }

end Sys2Proof.Machine
end

