-- ==== Sys2Proof/Machine/Flags.lean ====
section
/-! DEFINITION. The STATUS register: its word, the result codes, and what acceptance and completion write to it
(spec/10_state.md R24 to R26, R41; spec/60_exceptions.md R145, R146). -/

namespace Sys2Proof.Machine

/-- The value of ECODE (R146). -/
def ECode.bits (e : ECode) : BitVec 4 :=
  match e with
  | .ok => 0#4
  | .nonAscii => 1#4
  | .invalidChar => 2#4
  | .illegalCmd => 3#4
  | .badLength => 4#4
  | .badStep => 5#4
  | .badDigits => 6#4
  | .noKey => 7#4
  | .clockBeforeEpoch => 15#4

/-- STATUS.BUSY: 1 exactly when SEQ = BUSY (R19). -/
def State.busyFlag (s : State) : Bool := decide (s.seq = .busy)

/-- STATUS.FAULT: 1 exactly when SEQ = FAULTED (R19). -/
def State.faultFlag (s : State) : Bool := decide (s.seq = .faulted)

/-- The layout of the STATUS word (R24): bits 31:10 read 0, then KVALID, OVR, ECODE, FAULT, ERR, DONE and BUSY. -/
def statusBits (kvalid ovr : Bool) (e : ECode) (fault err done busy : Bool) : Word :=
  0#22 ++ BitVec.ofBool kvalid ++ BitVec.ofBool ovr ++ e.bits ++ BitVec.ofBool fault
    ++ BitVec.ofBool err ++ BitVec.ofBool done ++ BitVec.ofBool busy

/-- The STATUS word (R24). -/
def State.statusWord (s : State) : Word :=
  statusBits s.kvalid s.ovr s.ecode s.faultFlag s.err s.done s.busyFlag

/-- What every completion writes: SEQ leaves BUSY, DONE = 1, and ERR and ECODE as the outcome gives (R24, R145, R176). -/
def State.finish (s : State) (q : SeqState) (e : ECode) : State :=
  { s with seq := q, done := true, err := decide (e ≠ .ok), ecode := e }

/-- Success: ERR = 0 and ECODE = 0 (R145). -/
def State.complete (s : State) : State := s.finish .idle .ok

/-- STATUS.OVR set: a host write was dropped (R25). -/
def State.setOvr (s : State) : State := { s with ovr := true }

/-- STATUS.OVR cleared by a host write of 1 (R25). -/
def State.clearOvr (s : State) : State := { s with ovr := false }

end Sys2Proof.Machine
end

