-- ==== Sys2Proof/Machine/Ops.lean ====
section
/-! DEFINITION. The shared operations: the register window as the host sees it, a command's acceptance, the errors, the fatal
fault and reset (the only way out of it), the clock sample, and the writes of the engine to its result registers. -/

namespace Sys2Proof.Machine

/-! ### The register window -/

/-- What a 4-byte-aligned offset of the window names (R20). -/
inductive Slot where
  | id
  | cmd
  | status
  | inLen
  | outLen
  | digits
  | stepSizeLo
  | stepSizeHi
  | counterLo
  | counterHi
  | timeLo
  | timeHi
  | remain
  | trunc
  | code
  | digest (k : Fin 5)
  | inBuf
  | outBuf
  | reserved
  deriving DecidableEq, Repr

/-- The register map (R20) over word-aligned offsets. -/
def slotOf (off : Offset) : Slot :=
  let a := off.toNat
  if 0x100 ≤ a ∧ a < 0x200 then .inBuf
  else if 0x200 ≤ a ∧ a < 0x300 then .outBuf
  else if a = 0x000 then .id
  else if a = 0x004 then .cmd
  else if a = 0x008 then .status
  else if a = 0x00C then .inLen
  else if a = 0x010 then .outLen
  else if a = 0x014 then .digits
  else if a = 0x018 then .stepSizeLo
  else if a = 0x01C then .stepSizeHi
  else if a = 0x020 then .counterLo
  else if a = 0x024 then .counterHi
  else if a = 0x028 then .timeLo
  else if a = 0x02C then .timeHi
  else if a = 0x030 then .remain
  else if a = 0x034 then .trunc
  else if a = 0x038 then .code
  else if a = 0x040 then .digest 0
  else if a = 0x044 then .digest 1
  else if a = 0x048 then .digest 2
  else if a = 0x04C then .digest 3
  else if a = 0x050 then .digest 4
  else .reserved

/-- A word-aligned offset: bits [1:0] are 0 (R54). -/
def aligned (off : Offset) : Bool := off.extractLsb' 0 2 == 0#2

/-- The identification constant, "B3T1" (R22). -/
def idValue : Word := 0x42335431#32

/-- The result registers, whose reads while BUSY are unspecified (R65, R179). -/
def Slot.isResult (r : Slot) : Bool :=
  match r with
  | .outLen => true
  | .outBuf => true
  | .counterLo => true
  | .counterHi => true
  | .timeLo => true
  | .timeHi => true
  | .remain => true
  | .trunc => true
  | .code => true
  | .digest _ => true
  | .id => false
  | .cmd => false
  | .status => false
  | .inLen => false
  | .digits => false
  | .stepSizeLo => false
  | .stepSizeHi => false
  | .inBuf => false
  | .reserved => false

/-- The current value of the register or buffer word at an offset (R20 to R38, R52). CMD and reserved words read 0. -/
def State.slotValue (s : State) (off : Offset) : Word :=
  match slotOf off with
  | .id => idValue
  | .cmd => 0#32
  | .status => s.statusWord
  | .inLen => s.inLen.setWidth 32
  | .outLen => s.outLen.setWidth 32
  | .digits => s.digits.setWidth 32
  | .stepSizeLo => loWord s.stepSize
  | .stepSizeHi => hiWord s.stepSize
  | .counterLo => loWord s.counter
  | .counterHi => hiWord s.counter
  | .timeLo => loWord s.time
  | .timeHi => hiWord s.time
  | .remain => s.remain.setWidth 32
  | .trunc => s.trunc.setWidth 32
  | .code => s.code
  | .digest k => s.digest.word k
  | .inBuf => s.bufWord off.toNat
  | .outBuf => s.bufWord off.toNat
  | .reserved => 0#32

/-- A host write stored to the register or buffer word at an offset: the last lines of R66. Registers marked RO, reserved words
and the read-only fields of RW registers keep their value (R21, R39). CMD and STATUS have their own rules in `memWrite`. -/
def State.storeSlot (s : State) (off : Offset) (v : Word) : State :=
  match slotOf off with
  | .inLen => { s with inLen := v.setWidth 16 }
  | .digits => { s with digits := v.setWidth 8 }
  | .stepSizeLo => { s with stepSize := withLo s.stepSize v }
  | .stepSizeHi => { s with stepSize := withHi s.stepSize v }
  | .counterLo => { s with counter := withLo s.counter v }
  | .counterHi => { s with counter := withHi s.counter v }
  | .trunc => { s with trunc := v.setWidth 31 }
  | .digest k => { s with digest := s.digest.withWord k v }
  | .inBuf => s.storeWord off.toNat v
  | .id => s
  | .cmd => s
  | .status => s
  | .outLen => s
  | .timeLo => s
  | .timeHi => s
  | .remain => s
  | .code => s
  | .outBuf => s
  | .reserved => s

/-! ### Acceptance, completion with an error, the fault, reset -/

/-- Acceptance (R175): the word is latched, SEQ and STATUS change, nothing about the word is checked. The command's LATENCY is
the one a premise fixes, or a free number (R177; log entry 6). -/
def State.accept (s : State) (w : Word) : State :=
  { s with
    curCmd := w
    seq := .busy
    done := false
    err := false
    ecode := .ok
    delay := s.latNext.getD (Config.freeLatency s.draws)
    latNext := none
    draws := s.draws + 1 }

/-- `raise Error(e)` (R13, R145, R154): the command completes with ERR = 1 and ECODE = e, and SEQ returns to IDLE. -/
def State.raiseError (s : State) (e : ECode) : State := s.finish .idle e

/-- `raise Fault(CLOCK_BEFORE_EPOCH)`, fault entry (R155): SEQ = FAULTED, DONE = ERR = FAULT = 1 and ECODE = 15; nothing is
saved and nothing else changes (R154). -/
def State.raiseFault (s : State) : State := s.finish .faulted .clockBeforeEpoch

/-- Reset (R165, R166), the only way out of FAULTED (R156): every piece of the block's state takes its reset value, a command in
progress is abandoned, and the buffers' bytes are drawn anew. What belongs to the host and the environment stays (log entry 7). -/
def State.applyReset (s : State) : State :=
  { State.reset with
    inFill := s.draws
    outFill := s.draws
    draws := s.draws + 1
    actions := s.actions
    reads := s.reads
    latNext := s.latNext
    clkNext := s.clkNext }

/-! ### Host accesses -/

/-- The status of a host access (R54, R65, R66). -/
inductive BusStatus where
  | ok
  | busError
  deriving DecidableEq, Repr

/-- What a host read returns, and the state after it: only the count of free values can change (R56). -/
structure ReadResult where
  status : BusStatus
  data : Word
  after : State
  deriving DecidableEq, Repr

/-- What a host write returns, and the state after it. -/
structure WriteResult where
  status : BusStatus
  after : State
  deriving DecidableEq, Repr

/-- `MemRead(off, 4)` (R65). -/
def memRead (off : Offset) (s : State) : ReadResult :=
  if aligned off = false then { status := .busError, data := 0#32, after := s }
  else if s.seq = .busy ∧ (slotOf off).isResult = true then
    { status := .ok, data := Config.freeWord s.draws, after := { s with draws := s.draws + 1 } }
  else { status := .ok, data := s.slotValue off, after := s }

/-- `MemWrite(off, 4, v)` (R66). -/
def memWrite (off : Offset) (v : Word) (s : State) : WriteResult :=
  if aligned off = false then { status := .busError, after := s }
  else if slotOf off = .status then
    { status := .ok, after := if v.getLsbD 8 then s.clearOvr else s }
  else if s.seq = .busy then { status := .ok, after := s.setOvr }
  else if slotOf off = .cmd then
    { status := .ok, after := if s.seq = .idle then s.accept v else s }
  else { status := .ok, after := s.storeSlot off v }

/-! ### The engine's inputs and outputs -/

/-- The reading that the next `ClockSample()` returns: the one a premise fixes, or a free one (R78, R152; log entry 5). -/
def State.clockSample (s : State) : ClockReading := s.clkNext.getD (Config.freeClock s.draws)

/-- The state once the clock has been sampled: the premise is used up, the next sample is a fresh draw (R104, R152). -/
def State.sampled (s : State) : State := { s with clkNext := none, draws := s.draws + 1 }

/-- OUT_BUF holds `bytes` from index 0, its other bytes are unspecified, OUT_LEN and KVALID are written (R90, R94). -/
def State.deliverOutput (s : State) (bytes : List Byte) (kv : Bool) : State :=
  { s with
    mem := (s.mem.forget 0x200 0x300).putBytes 0x200 bytes
    outFill := s.draws
    draws := s.draws + 1
    outLen := BitVec.ofNat 16 bytes.length
    kvalid := kv }

/-- What NON_ASCII and INVALID_CHAR change beyond STATUS's error fields: OUT_LEN = 0, KVALID = 0, every byte of OUT_BUF
unspecified (R97, R148). -/
def State.withholdOutput (s : State) : State :=
  { s with
    mem := s.mem.forget 0x200 0x300
    outFill := s.draws
    draws := s.draws + 1
    outLen := 0#16
    kvalid := false }

end Sys2Proof.Machine
end

