-- ==== Sys2Proof/Machine/Sha1.lean ====
section
/-! DEFINITION. SHA-1 and HMAC-SHA1 as spec/43_hmac_sha1.md R130 to R143 write them out (FIPS 180-4 and RFC 2104; the spec marks
those rules as general knowledge, log entry 15). -/

namespace Sys2Proof.Machine

/-- `ROTL_n(x)` (R131). -/
def rotl (n : Nat) (x : Word) : Word := x <<< n ||| x >>> (32 - n)

/-- A 4-byte group read as a word, the first byte most significant (R131). -/
def wordOfBytes (b0 b1 b2 b3 : Byte) : Word := b0 ++ b1 ++ b2 ++ b3

/-- A word written back as 4 bytes, most significant first (R131). -/
def bytesOfWord (w : Word) : List Byte := [laneByte w 3, laneByte w 2, laneByte w 1, laneByte w 0]

/-- The words of a byte string whose length is a multiple of 4 (R131). -/
def wordsOf (l : List Byte) : List Word :=
  match l with
  | b0 :: b1 :: b2 :: b3 :: rest => wordOfBytes b0 b1 b2 b3 :: wordsOf rest
  | _ => []

/-- The 64-bit big-endian encoding of a value: 8 bytes, most significant first (R107, R132). -/
def bigEndian64 (x : DWord) : List Byte :=
  [x.extractLsb' 56 8, x.extractLsb' 48 8, x.extractLsb' 40 8, x.extractLsb' 32 8,
   x.extractLsb' 24 8, x.extractLsb' 16 8, x.extractLsb' 8 8, x.extractLsb' 0 8]

/-- How many zero bytes padding inserts after 0x80, so that the length becomes 56 mod 64 (R132). -/
def zeroPadding (len : Nat) : Nat := (119 - len % 64) % 64

/-- The padded message: 0x80, zero bytes, then the length in bits (R132). -/
def padMessage (m : List Byte) : List Byte :=
  m ++ 0x80#8 :: List.replicate (zeroPadding m.length) 0#8
    ++ bigEndian64 (BitVec.ofNat 64 (8 * m.length))

/-- The chaining value, or the five working words of a round (R133, R137). -/
structure Chain where
  a : Word
  b : Word
  c : Word
  d : Word
  e : Word
  deriving DecidableEq, Repr

/-- The initial chaining value (R133). -/
def initialChain : Chain :=
  { a := 0x67452301#32, b := 0xEFCDAB89#32, c := 0x98BADCFE#32, d := 0x10325476#32, e := 0xC3D2E1F0#32 }

/-- The round function `f_t` (R134). -/
def roundFn (t : Nat) (b c d : Word) : Word :=
  if t ≤ 19 then (b &&& c) ||| (~~~b &&& d)
  else if t ≤ 39 then b ^^^ c ^^^ d
  else if t ≤ 59 then (b &&& c) ||| (b &&& d) ||| (c &&& d)
  else b ^^^ c ^^^ d

/-- The round constant `K_t` (R135). -/
def roundConst (t : Nat) : Word :=
  if t ≤ 19 then 0x5A827999#32
  else if t ≤ 39 then 0x6ED9EBA1#32
  else if t ≤ 59 then 0x8F1BBCDC#32
  else 0xCA62C1D6#32

/-- `n` more words of a message schedule held newest first: the words `W_{t-3}`, `W_{t-8}`, `W_{t-14}` and `W_{t-16}` stand at
places 2, 7, 13 and 15 (R136). -/
def extendSchedule (n : Nat) (ws : List Word) : List Word :=
  match n with
  | 0 => ws
  | n + 1 =>
    extendSchedule n
      (rotl 1 (ws.getD 2 0#32 ^^^ ws.getD 7 0#32 ^^^ ws.getD 13 0#32 ^^^ ws.getD 15 0#32) :: ws)

/-- The message schedule `W_0 .. W_79` of a block's 16 words (R136). -/
def schedule (block : List Word) : List Word := (extendSchedule 64 block.reverse).reverse

/-- Round `t` of the compression with schedule word `w` (R137). -/
def sha1Round (t : Nat) (w : Word) (r : Chain) : Chain :=
  { a := rotl 5 r.a + roundFn t r.b r.c r.d + r.e + roundConst t + w
    b := r.a
    c := rotl 30 r.b
    d := r.c
    e := r.d }

/-- The rounds from `t` on, over the schedule words that are left (R137). -/
def sha1Rounds (t : Nat) (ws : List Word) (r : Chain) : Chain :=
  match ws with
  | [] => r
  | w :: rest => sha1Rounds (t + 1) rest (sha1Round t w r)

/-- Compression of one block of 16 words (R137). -/
def compress (h : Chain) (block : List Word) : Chain :=
  let r := sha1Rounds 0 (schedule block) h
  { a := h.a + r.a, b := h.b + r.b, c := h.c + r.c, d := h.d + r.d, e := h.e + r.e }

/-- Compression of the first `n` blocks of a word string, in order (R138). -/
def compressBlocks (n : Nat) (ws : List Word) (h : Chain) : Chain :=
  match n with
  | 0 => h
  | n + 1 => compressBlocks n (ws.drop 16) (compress h (ws.take 16))

/-- The 20 bytes of a chaining value, each word big-endian (R138). -/
def Chain.bytes (h : Chain) : List Byte :=
  bytesOfWord h.a ++ bytesOfWord h.b ++ bytesOfWord h.c ++ bytesOfWord h.d ++ bytesOfWord h.e

/-- `SHA1(M)` (R138). -/
def sha1 (m : List Byte) : List Byte :=
  (compressBlocks ((padMessage m).length / 64) (wordsOf (padMessage m)) initialChain).bytes

/-- Key preparation: `K'`, padded with zero bytes to 64 (R142). -/
def prepareKey (k : List Byte) : List Byte :=
  let k' := if 64 < k.length then sha1 k else k
  k' ++ List.replicate (64 - k'.length) 0#8

/-- The prepared key with a pad byte over all its bytes (R140, R143). -/
def padKey (k0 : List Byte) (pad : Byte) : List Byte := k0.map fun b => b ^^^ pad

/-- `HMAC_SHA1(K, m)`, with ipad 0x36 and opad 0x5C (R140, R143). -/
def hmacSha1 (k m : List Byte) : List Byte :=
  sha1 (padKey (prepareKey k) 0x5C#8 ++ sha1 (padKey (prepareKey k) 0x36#8 ++ m))

end Sys2Proof.Machine
end

