-- ==== Sys2Proof/Machine/Operands.lean ====
section
/-! DEFINITION. The implicit operands of the commands (spec/30_encoding.md R73, R74), the checks on them in the order of
spec/60_exceptions.md R147, and the functions of the code generator (spec/41_time_step.md R100, spec/42_code_generation.md
R107 to R119). -/

namespace Sys2Proof.Machine

/-- The text of VALIDATE and DECODE: `IN_BUF[0 .. IN_LEN)` (R67, R89). -/
def State.text (s : State) : List Byte := s.inBytes s.inLen.toNat

/-- The key of HMAC, CODE and TOTP (R67, R73). -/
def State.keyBytes (s : State) (k : KeySource) : List Byte :=
  match k with
  | .inBuf => s.inBytes s.inLen.toNat
  | .outBuf => s.outBytes s.outLen.toNat

/-- BAD_LENGTH: a command that reads IN_BUF finds IN_LEN > 256 (R27, R147 check 2). -/
def State.lengthError (s : State) : Option ECode :=
  if 256 < s.inLen.toNat then some .badLength else none

/-- BAD_LENGTH for KSRC = 0, NO_KEY for KSRC = 1 (R73, R147 checks 2 and 3). -/
def State.keyError (s : State) (k : KeySource) : Option ECode :=
  match k with
  | .inBuf => s.lengthError
  | .outBuf => if s.kvalid then none else some .noKey

/-- BAD_STEP: STEP_SIZE is outside [1, 255] (R30, R147 check 4). -/
def State.stepError (s : State) : Option ECode :=
  if s.stepSize.toNat < 1 ∨ 255 < s.stepSize.toNat then some .badStep else none

/-- BAD_DIGITS: DIGITS is outside [1, 9] (R29, R147 check 5). -/
def State.digitsError (s : State) : Option ECode :=
  if s.digits.toNat < 1 ∨ 9 < s.digits.toNat then some .badDigits else none

/-- The data errors of a text: NON_ASCII anywhere before INVALID_CHAR anywhere (R86, R88, R147 checks 6 and 7). -/
def textError (t : List Byte) : Option ECode :=
  if asciiText t = false then some .nonAscii
  else if inAlphabet (upperText t) = false then some .invalidChar
  else none

/-- `step_index(t, s) = t div s` (R100). -/
def stepIndex (t s : DWord) : DWord := BitVec.ofNat 64 (t.toNat / s.toNat)

/-- `remaining(t, s) = s - (t mod s)`, its low 8 bits (R100, R101). -/
def remaining (t s : DWord) : BitVec 8 := BitVec.ofNat 8 (s.toNat - t.toNat % s.toNat)

/-- `msg(c)`, the 8-byte big-endian step index (R107). -/
def hmacMessage (c : DWord) : List Byte := bigEndian64 c

/-- `offset(d) = d[19] & 0x0F` (R111). -/
def truncOffset (d : Digest) : Nat := (d.byte 19 &&& 0x0F#8).toNat

/-- `d[offset + i]`, byte `i` of the 4-byte window (R111). -/
def truncWindow (d : Digest) (i : Nat) : Byte := d.bytes.getD (truncOffset d + i) 0#8

/-- `trunc(d)`, a 32-bit value whose bit 31 is 0 (R111). -/
def truncate (d : Digest) : Word :=
  (truncWindow d 0 &&& 0x7F#8).setWidth 32 <<< 24 ||| (truncWindow d 1).setWidth 32 <<< 16
    ||| (truncWindow d 2).setWidth 32 <<< 8 ||| (truncWindow d 3).setWidth 32

/-- `truncated mod 10^digits` (R114, R118). -/
def decimalCode (v : BitVec 31) (d : BitVec 8) : Word := BitVec.ofNat 32 (v.toNat % 10 ^ d.toNat)

/-- The engine's TIME, COUNTER and REMAIN writes for a clock reading (R101). -/
def State.writeTimeStep (s : State) (t : DWord) : State :=
  { s with time := t, counter := stepIndex t s.stepSize, remain := remaining t s.stepSize }

/-- Step 1: DIGEST from the key and COUNTER (R108). -/
def State.deriveDigest (s : State) (k : KeySource) : State :=
  { s with digest := Digest.ofBytes (hmacSha1 (s.keyBytes k) (hmacMessage s.counter)) }

/-- Steps 2 and 3: TRUNC from DIGEST (R112). -/
def State.deriveTrunc (s : State) : State := { s with trunc := (truncate s.digest).setWidth 31 }

/-- Step 4: CODE from TRUNC and DIGITS (R117). -/
def State.deriveCode (s : State) : State := { s with code := decimalCode s.trunc s.digits }

/-- A command that needs no data and no clock beyond its checks: it ends in the first error, or does its effect and completes
(R145, R147). -/
def State.checked (s : State) (err : Option ECode) (effect : State) : State :=
  match err with
  | some e => s.raiseError e
  | none => effect.complete

/-- The effect of a clock reading (R101, R152, R155): the fault, or TIME, COUNTER and REMAIN written. -/
def State.takeReading (s : State) (r : ClockReading) (body : State → State) : State :=
  match r with
  | .beforeEpoch => s.raiseFault
  | .secs t => (body (s.writeTimeStep t)).complete

/-- A command that samples the clock: its checks first, then exactly one sample, then the fault or the effect (R104, R120,
R147). -/
def State.timed (s : State) (err : Option ECode) (body : State → State) : State :=
  match err with
  | some e => s.raiseError e
  | none => s.sampled.takeReading s.clockSample body

/-- A command over the text of IN_BUF: BAD_LENGTH, then the data errors, then its output (R89, R93, R97, R147). -/
def State.textCommand (s : State) (output : List Byte → List Byte) (kv : Bool) : State :=
  match s.lengthError with
  | some e => s.raiseError e
  | none =>
    match textError s.text with
    | some e => s.withholdOutput.raiseError e
    | none => (s.deliverOutput (output (upperText s.text)) kv).complete

end Sys2Proof.Machine
end

