-- ==== Sys2Proof/Machine/Agents.lean ====
section
/-! DEFINITION. Which agent moves next (spec/00_scope.md R17, spec/70_reset_and_hazards.md R165, R177), what the host and the
environment do in a step of theirs (spec/30_encoding.md R78, R79), and the host's pseudo-instructions. -/

namespace Sys2Proof.Machine

/-- Which agent moves in the next step. -/
inductive Turn where
  /-- the environment asserts and releases `rst`; `rest` stays pending -/
  | reset (rest : List Action)
  /-- the engine's completion step -/
  | engine
  /-- the host or the environment does `a`; `rest` stays pending -/
  | act (a : Action) (rest : List Action)
  /-- nothing is pending and no command is executing -/
  | quiet
  deriving DecidableEq, Repr

/-- The turn when `rst` is not asserted: the engine completes once its `delay` host accesses have come, or no action is left
(R177). -/
def State.turnWithoutReset (s : State) : Turn :=
  if s.seq = .busy ∧ s.delay = 0 then .engine
  else
    match s.actions with
    | [] => if s.seq = .busy then .engine else .quiet
    | a :: rest => .act a rest

/-- Whose turn it is. An asserted `rst` goes before the engine and the host (R165; log entry 7). -/
def State.turn (s : State) : Turn :=
  match s.actions with
  | .rst :: rest => .reset rest
  | _ => s.turnWithoutReset

/-- The state with the pending actions replaced. -/
def State.withActions (s : State) (rest : List Action) : State := { s with actions := rest }

/-- One host access counted against the LATENCY of the executing command (R177; log entry 6). -/
def State.spend (s : State) : State := { s with delay := s.delay - 1 }

/-- The value of a completed host read, kept for the host (log entry 10). -/
def State.noteRead (s : State) (v : Word) : State := { s with reads := v :: s.reads }

/-- The host's read, in a state whose pending actions no longer hold it (R65). A bus error is a fault of the access (R54). -/
def hostRead (off : Offset) (s : State) : Host.Outcome State Fault Refusal :=
  match (memRead off s.spend).status with
  | .busError => .fault (.busError off)
  | .ok => .next ((memRead off s.spend).after.noteRead (memRead off s.spend).data)

/-- The host's write, in a state whose pending actions no longer hold it (R66). A bus error is a fault of the access (R54). -/
def hostWrite (off : Offset) (v : Word) (s : State) : Host.Outcome State Fault Refusal :=
  match (memWrite off v s.spend).status with
  | .busError => .fault (.busError off)
  | .ok => .next (memWrite off v s.spend).after

/-- One round of `WAIT` (R79): read STATUS; while bit 0 is 1 the `WAIT` stays pending. -/
def hostWait (s : State) : Host.Outcome State Fault Refusal :=
  .next
    (if s.statusWord.getLsbD 0 then (s.spend.noteRead s.statusWord).withActions (.wait :: s.actions)
     else s.spend.noteRead s.statusWord)

/-- What an action does, in a state whose pending actions no longer hold it. -/
def perform (a : Action) (s : State) : Host.Outcome State Fault Refusal :=
  match a with
  | .write off v => hostWrite off v s
  | .read off => hostRead off s
  | .wait => hostWait s
  | .clk r => .next { s with clkNext := some r }
  | .latency n => .next { s with latNext := some n }
  | .rst => .next s.applyReset

/-- A pending `rst` at the front is dropped (log entry 23). -/
def dropResets (l : List Action) : List Action :=
  match l with
  | .rst :: rest => dropResets rest
  | l => l

/-- The state in which `w` has just been accepted (R175) and the very next step is its completion: no host access comes first
and no `rst` is at the front (log entry 23). -/
def State.present (s : State) (w : Word) : State :=
  (State.accept { s with latNext := some 0 } w).withActions (dropResets s.actions)

/-! ### The host's pseudo-instructions (R79) -/

/-- The offset of CMD (R20). -/
def cmdOffset : Offset := 0x004#10

/-- The offset of IN_LEN (R20). -/
def inLenOffset : Offset := 0x00C#10

/-- `RUN c`: `W CMD, c` then `WAIT`. -/
def runCmd (i : Instr) : List Action := [.write cmdOffset (encode i), .wait]

/-- The writes `W off + 4k, word_k` of `LOADIN`; the missing high bytes of the last word are 0 (R52, R79). DESIGN CHOICE (log
entry 27): the spec defines MemWrite up to 0x3FF only and says nothing of a text of more than 768 bytes, whose words would go
beyond; here an offset is 10 bits and wraps, so such a text's later words go to offset 0x000 on. -/
def loadWords (off : Offset) (l : List Byte) : List Action :=
  match l with
  | [] => []
  | [b0] => [.write off (packLanes b0 0#8 0#8 0#8)]
  | [b0, b1] => [.write off (packLanes b0 b1 0#8 0#8)]
  | [b0, b1, b2] => [.write off (packLanes b0 b1 b2 0#8)]
  | b0 :: b1 :: b2 :: b3 :: rest => .write off (packLanes b0 b1 b2 b3) :: loadWords (off + 4#10) rest

/-- `LOADIN bytes(b0 .. bn-1)`: the text, then `W IN_LEN, n`. For texts of more than 768 bytes, see `loadWords` (log entry 27). -/
def loadIn (l : List Byte) : List Action :=
  loadWords 0x100#10 l ++ [.write inLenOffset (BitVec.ofNat 32 l.length)]

/-- `SET64 REG, v`: `W REG_LO, v[31:0]` then `W REG_HI, v[63:32]`. -/
def set64 (lo : Offset) (v : DWord) : List Action :=
  [.write lo (loWord v), .write (lo + 4#10) (hiWord v)]

end Sys2Proof.Machine
end

