-- ==== Sys2Proof/Machine/Base32.lean ====
section
/-! DEFINITION. The Base32 family (spec/40_base32.md). -/

namespace Sys2Proof.Machine

/-- VALIDATE (R89): the upper-cased text goes to OUT_BUF and KVALID is cleared (R90). -/
def execValidate (s : State) : Host.Outcome State Fault Refusal := .next (s.textCommand id false)

/-- DECODE (R93): the decoded bytes go to OUT_BUF and KVALID is set (R94). -/
def execDecode (s : State) : Host.Outcome State Fault Refusal := .next (s.textCommand decodedBytes true)

end Sys2Proof.Machine
end

