-- ==== Sys2Proof/Machine/CodeGen.lean ====
section
/-! DEFINITION. The code-generation family (spec/42_code_generation.md). -/

namespace Sys2Proof.Machine

/-- HMAC (R108): DIGEST from the key and COUNTER. -/
def execHmac (k : KeySource) (s : State) : Host.Outcome State Fault Refusal :=
  .next (s.checked (s.keyError k) (s.deriveDigest k))

/-- TRUNC (R112): TRUNC from DIGEST; no check. -/
def execTrunc (s : State) : Host.Outcome State Fault Refusal := .next s.deriveTrunc.complete

/-- MODC (R117): CODE from TRUNC and DIGITS. -/
def execModc (s : State) : Host.Outcome State Fault Refusal := .next (s.checked s.digitsError s.deriveCode)

/-- CODE (R121): steps 1 to 4 at the host's step index, after every check (R120). -/
def execCode (k : KeySource) (s : State) : Host.Outcome State Fault Refusal :=
  .next (s.checked ((s.keyError k).or s.digitsError) ((s.deriveDigest k).deriveTrunc.deriveCode))

/-- TOTP (R124): the checks, one clock sample, the time step, then steps 1 to 4 on the step index just written. -/
def execTotp (k : KeySource) (s : State) : Host.Outcome State Fault Refusal :=
  .next (s.timed ((s.keyError k).or (s.stepError.or s.digitsError)) fun s' =>
    (s'.deriveDigest k).deriveTrunc.deriveCode)

end Sys2Proof.Machine
end

