-- ==== Sys2Proof/Machine/TimeStep.lean ====
section
/-! DEFINITION. The time-step family (spec/41_time_step.md). -/

namespace Sys2Proof.Machine

/-- TSTEP (R101): BAD_STEP, then one clock sample, then TIME, COUNTER and REMAIN, or the fault. -/
def execTstep (s : State) : Host.Outcome State Fault Refusal := .next (s.timed s.stepError id)

end Sys2Proof.Machine
end

