-- ==== Sys2Proof/Machine/Dispatch.lean ====
section
/-! DEFINITION. The engine's completion step for a decoded command: one arm per command (spec/70_reset_and_hazards.md R176). -/

namespace Sys2Proof.Machine

def exec (i : Instr) (s : State) : Host.Outcome State Fault Refusal :=
  match i with
  | .validate => Sys2Proof.Machine.execValidate s
  | .decode => Sys2Proof.Machine.execDecode s
  | .tstep => Sys2Proof.Machine.execTstep s
  | .hmac key => Sys2Proof.Machine.execHmac key s
  | .trunc => Sys2Proof.Machine.execTrunc s
  | .modc => Sys2Proof.Machine.execModc s
  | .code key => Sys2Proof.Machine.execCode key s
  | .totp key => Sys2Proof.Machine.execTotp key s

end Sys2Proof.Machine
end

