-- ==== Sys2Proof/Machine/Step.lean ====
section
/-! DEFINITION. One step of the machine: exactly one agent moves (spec/00_scope.md R17, spec/20_memory.md R60). -/

namespace Sys2Proof.Machine

/-- The engine's completion step (R176): the rule of the command that CUR_CMD names, or ILLEGAL_CMD (R75). -/
def engineStep (s : State) : Host.Outcome State Fault Refusal :=
  match decode s.curCmd with
  | .instr i => exec i s
  | .reject _ => .next (s.raiseError .illegalCmd)

/-- One step. With nothing pending and no command executing the block does nothing (R162). -/
def step (s : State) : Host.Outcome State Fault Refusal :=
  match s.turn with
  | .reset rest => perform .rst (s.withActions rest)
  | .engine => engineStep s
  | .act a rest => perform a (s.withActions rest)
  | .quiet => .next s

/-- The state in which a table word is the accepted command and the very next step completes it (log entry 23). -/
def State.withFetchWord (s : State) (nbits w : Nat) : State := s.present (tableWord nbits w)

end Sys2Proof.Machine
end

