-- ==== Sys2Proof/Safety.lean ====
section
/-! DEFINITION. What counts as a safe run, the invariant of the machine, and the reference functions that the statements compare
the machine with: each is written from a rule of the spec in plain numbers, beside and apart from the machine's own definitions. -/

namespace Sys2Proof.Machine

/-! ### Safe states and the invariant -/

/-- A state in which no fatal fault was taken and no host write was lost: the premises "no fault" and "OVR stays 0" that claims
about a host program need (R156; U15 of spec/93_implementation_defined.md). -/
abbrev State.safe (s : State) : Prop := s.seq ≠ .faulted ∧ s.ovr = false

/-- What STATUS shows of SEQ (R24, R155, R156): cleared while BUSY, the fault's values while FAULTED, and while IDLE an ERR that
is 1 exactly for an error code, and only once a command has completed. -/
abbrev State.statusInv (s : State) : Prop :=
  (s.seq = .busy → s.done = false ∧ s.err = false ∧ s.ecode = .ok) ∧
  (s.seq = .faulted → s.done = true ∧ s.err = true ∧ s.ecode = .clockBeforeEpoch) ∧
  (s.seq = .idle → s.ecode ≠ .clockBeforeEpoch ∧ (s.err = true ↔ s.ecode ≠ .ok) ∧ (s.err = true → s.done = true))

/-- The invariant: the cells keep their canonical form, STATUS agrees with SEQ, OUT_LEN is at most 256 (R28), a valid key is at
most 160 bytes long (R93, "the largest input"), and CODE is at most 999,999,999 (R35). -/
abbrev State.inv (s : State) : Prop :=
  s.mem.wf ∧ s.statusInv ∧ s.outLen.toNat ≤ 256 ∧ (s.kvalid = true → s.outLen.toNat ≤ 160) ∧ s.code.toNat ≤ 999999999

/-- A host access that ends in a bus error (R54). -/
def Action.misaligned (a : Action) : Bool :=
  match a with
  | .write off _ => decide (off.toNat % 4 ≠ 0)
  | .read off => decide (off.toNat % 4 ≠ 0)
  | .wait => false
  | .clk _ => false
  | .latency _ => false
  | .rst => false

/-- A host access that goes over the bus and is answered OK: an aligned read or write, or a poll of `WAIT` (R65, R66, R79). -/
def Action.alignedAccess (a : Action) : Bool :=
  match a with
  | .write off _ => decide (off.toNat % 4 = 0)
  | .read off => decide (off.toNat % 4 = 0)
  | .wait => true
  | .clk _ => false
  | .latency _ => false
  | .rst => false

/-! ### Which operands a command reads (R74, R147) -/

/-- The commands that read IN_BUF: VALIDATE and DECODE, and HMAC, CODE and TOTP with KSRC = 0 (R147 check 2). -/
def readsInBuf (i : Instr) : Bool :=
  match i with
  | .validate => true
  | .decode => true
  | .tstep => false
  | .hmac k => decide (k = .inBuf)
  | .trunc => false
  | .modc => false
  | .code k => decide (k = .inBuf)
  | .totp k => decide (k = .inBuf)

/-- The commands with KSRC = 1 (R147 check 3). -/
def readsOutBuf (i : Instr) : Bool :=
  match i with
  | .validate => false
  | .decode => false
  | .tstep => false
  | .hmac k => decide (k = .outBuf)
  | .trunc => false
  | .modc => false
  | .code k => decide (k = .outBuf)
  | .totp k => decide (k = .outBuf)

/-- The commands that read STEP_SIZE and the clock port: TSTEP and TOTP (R147 checks 4 and 8). -/
def readsClock (i : Instr) : Bool :=
  match i with
  | .validate => false
  | .decode => false
  | .tstep => true
  | .hmac _ => false
  | .trunc => false
  | .modc => false
  | .code _ => false
  | .totp _ => true

/-- The commands that read DIGITS: MODC, CODE and TOTP (R147 check 5). -/
def readsDigits (i : Instr) : Bool :=
  match i with
  | .validate => false
  | .decode => false
  | .tstep => false
  | .hmac _ => false
  | .trunc => false
  | .modc => true
  | .code _ => true
  | .totp _ => true

/-- The commands over a text: VALIDATE and DECODE (R147 checks 6 and 7). -/
def readsText (i : Instr) : Bool :=
  match i with
  | .validate => true
  | .decode => true
  | .tstep => false
  | .hmac _ => false
  | .trunc => false
  | .modc => false
  | .code _ => false
  | .totp _ => false

/-! ### Reference functions -/

/-- A byte of a text that upper-cases to a symbol of the alphabet: `[A-Za-z2-7]` (R85, R87, R96). -/
def base32Char (b : Byte) : Bool :=
  decide (0x41 ≤ b.toNat ∧ b.toNat ≤ 0x5A ∨ 0x61 ≤ b.toNat ∧ b.toNat ≤ 0x7A ∨ 0x32 ≤ b.toNat ∧ b.toNat ≤ 0x37)

/-- The value of such a byte, 0 to 31, either case (R85, R87). -/
def base32Value (b : Byte) : Nat :=
  if 0x61 ≤ b.toNat then b.toNat - 0x61
  else if 0x41 ≤ b.toNat then b.toNat - 0x41
  else b.toNat - 0x32 + 26

/-- The result code of a command, as the list of R147 gives it: the first check that applies and fails. -/
def expectedCode (i : Instr) (s : State) : ECode :=
  if readsInBuf i = true ∧ 256 < s.inLen.toNat then .badLength
  else if readsOutBuf i = true ∧ s.kvalid = false then .noKey
  else if readsClock i = true ∧ ¬ (1 ≤ s.stepSize.toNat ∧ s.stepSize.toNat ≤ 255) then .badStep
  else if readsDigits i = true ∧ ¬ (1 ≤ s.digits.toNat ∧ s.digits.toNat ≤ 9) then .badDigits
  else if readsText i = true ∧ ∃ j < s.inLen.toNat, 0x80 ≤ (s.inByte j).toNat then .nonAscii
  else if readsText i = true ∧ ∃ j < s.inLen.toNat, base32Char (s.inByte j) = false then .invalidChar
  else if readsClock i = true ∧ s.clockSample = .beforeEpoch then .clockBeforeEpoch
  else .ok

/-- The key's length of a key source: IN_LEN or OUT_LEN (R73). -/
def State.keyLen (s : State) (k : KeySource) : Nat :=
  match k with
  | .inBuf => s.inLen.toNat
  | .outBuf => s.outLen.toNat

/-- Byte `j` of the key of a key source (R73). -/
def State.keyByte (s : State) (k : KeySource) (j : Nat) : Byte :=
  match k with
  | .inBuf => s.inByte j
  | .outBuf => s.outByte j

/-- The key that a command reads is there: IN_LEN ≤ 256, or KVALID = 1 (R73). -/
def State.keyReady (s : State) (k : KeySource) : Prop :=
  match k with
  | .inBuf => s.inLen.toNat ≤ 256
  | .outBuf => s.kvalid = true

/-- `trunc(d)` of R111 in plain numbers: the low nibble of byte 19 selects four bytes, the first without its top bit. -/
def windowValue (d : Digest) : Nat :=
  let o := (d.byte 19).toNat % 16
  let b := fun i => (d.bytes.getD (o + i) 0#8).toNat
  (b 0 % 128) * 2 ^ 24 + b 1 * 2 ^ 16 + b 2 * 2 ^ 8 + b 3

/-- `K0` of R142 for a key: the key, or its SHA-1 when it is longer than 64 bytes, filled up with zero bytes to 64. -/
def hmacKeyBlock (k : List Byte) : List Byte :=
  if k.length ≤ 64 then k ++ List.replicate (64 - k.length) 0#8 else sha1 k ++ List.replicate 44 0#8

/-- `HMAC_SHA1(key, msg(c))` for a command's key and the step index `c`, written out over SHA-1: R143 with the pads of R140, the key
preparation of R142, and the message of R107, whose byte `j` is c div 256^(7-j). -/
def State.hmacOver (s : State) (k : KeySource) (c : DWord) : List Byte :=
  let k0 := hmacKeyBlock ((List.range (s.keyLen k)).map (s.keyByte k))
  let msg := (List.range 8).map fun j => BitVec.ofNat 8 (c.toNat / 256 ^ (7 - j))
  sha1 (k0.map (fun b => b ^^^ 0x5C#8) ++ sha1 (k0.map (fun b => b ^^^ 0x36#8) ++ msg))

/-- The eight bits of a byte, bit 7 first. -/
def bitsOfByte (b : Byte) : List Bool :=
  [b.getLsbD 7, b.getLsbD 6, b.getLsbD 5, b.getLsbD 4, b.getLsbD 3, b.getLsbD 2, b.getLsbD 1, b.getLsbD 0]

/-- `ALPHABET[v]` for the 5-bit value whose bits are given, most significant first (R14, R85). -/
def alphabetChar (b4 b3 b2 b1 b0 : Bool) : Byte :=
  let v := b4.toNat * 16 + b3.toNat * 8 + b2.toNat * 4 + b1.toNat * 2 + b0.toNat
  if v < 26 then BitVec.ofNat 8 (0x41 + v) else BitVec.ofNat 8 (0x32 + (v - 26))

/-- A bit string cut into symbols, the last one filled up with zero bits. -/
def symbolsOfBits (l : List Bool) : List Byte :=
  match l with
  | b4 :: b3 :: b2 :: b1 :: b0 :: rest => alphabetChar b4 b3 b2 b1 b0 :: symbolsOfBits rest
  | [] => []
  | [b4] => [alphabetChar b4 false false false false]
  | [b4, b3] => [alphabetChar b4 b3 false false false]
  | [b4, b3, b2] => [alphabetChar b4 b3 b2 false false]
  | [b4, b3, b2, b1] => [alphabetChar b4 b3 b2 b1 false]

/-- The RFC 4648 Base32 encoding of a byte string with its padding removed. PRESUMED: the block has no encoder; R96 names this
function and the spec does not write it out (log entry 26). -/
def rfcText (x : List Byte) : List Byte := symbolsOfBits (x.flatMap bitsOfByte)

end Sys2Proof.Machine
end

