-- ==== Sys2Proof/Certificates/Slice0/Obligations.lean ====
section
/-! DEFINITION. The statements for the provers. Each docstring names the rules of spec/ that the statement formalises. A free
value (`Config.free…`) stands for what the spec leaves open, and no statement rests on what it is. -/

open Sys2Proof Sys2Proof.Machine

/-! ### Encoding -/

/-- For every well-formed command and every 32-bit word, the decoder reads the command from the word exactly when the word is
the command's encoding: no bit of an encoding is dropped and no other word decodes (R71, R72, R77). -/
def Obligations.EncodingAndDecodingAgree : Prop :=
  ∀ i : Instr, i.wellFormed = true → ∀ w : Word, Sys2Proof.decode w = .instr i ↔ w = encode i

/-- R75: the words that decode are those of `legal(w)`, written in plain numbers, and every other word, once accepted, completes
with ERR = 1 and ECODE = ILLEGAL_CMD and changes nothing but SEQ and STATUS. -/
def Obligations.LegalWordsDecodeAndOthersAreIllegal : Prop :=
  (∀ w : Word, (∃ i, Sys2Proof.decode w = .instr i) ↔
    (w.toNat % 256 ∈ [0x01, 0x02, 0x10, 0x11, 0x12, 0x13, 0x14, 0x15] ∧ w.toNat / 512 = 0 ∧
      (w.toNat / 256 % 2 = 0 ∨ w.toNat % 256 ∈ [0x11, 0x14, 0x15]))) ∧
  (∀ (s : State) (w : Word), s.seq = .idle →
    (memWrite 0x004#10 w s).after.seq = .busy ∧ (memWrite 0x004#10 w s).after.curCmd = w) ∧
  (∀ s : State, (∀ i, Sys2Proof.decode s.curCmd ≠ .instr i) →
    engineStep s = .next { s with seq := .idle, done := true, err := true, ecode := .illegalCmd })

/-- Words written out from R72, R75 and R77, and the command each stands for, or that it is illegal. -/
def Obligations.ListedWordsDecodeAsListed : Prop :=
  Sys2Proof.decode 0x00000001#32 = .instr .validate ∧ Sys2Proof.decode 0x00000002#32 = .instr .decode ∧
  Sys2Proof.decode 0x00000010#32 = .instr .tstep ∧ Sys2Proof.decode 0x00000111#32 = .instr (.hmac .outBuf) ∧
  Sys2Proof.decode 0x00000012#32 = .instr .trunc ∧ Sys2Proof.decode 0x00000013#32 = .instr .modc ∧
  Sys2Proof.decode 0x00000014#32 = .instr (.code .inBuf) ∧ Sys2Proof.decode 0x00000115#32 = .instr (.totp .outBuf) ∧
  Sys2Proof.decode 0x00000000#32 = .reject .reservedOp ∧ Sys2Proof.decode 0x00000003#32 = .reject .reservedOp ∧
  Sys2Proof.decode 0x00000101#32 = .reject .keySourceNotAllowed ∧
  Sys2Proof.decode 0x80000002#32 = .reject .reservedField

/-! ### Steps, acceptance, completion -/

/-- R176: when a command word is accepted, no host access is due before the completion and no `rst` is at the front, a step is
`exec` of the decoded command at that state, with nothing around it. -/
def Obligations.StepRunsTheDecodedCommand : Prop :=
  ∀ (s : State) (i : Instr), s.seq = .busy → Sys2Proof.decode s.curCmd = .instr i → (s.delay = 0 ∨ s.actions = []) →
    (∀ rest, s.actions ≠ .rst :: rest) → step s = exec i s

/-- A table word presented by `withFetchWord` is run by the very next step (log entry 23), from every state. -/
def Obligations.PresentedTableWordRunsNext : Prop :=
  ∀ (s : State) (w : Nat) (i : Instr), decodeTableWord 32 w = some i →
    step (s.withFetchWord 32 w) = exec i (s.withFetchWord 32 w)

/-- R175: a host write of any word to CMD while IDLE latches the word, moves SEQ to BUSY, clears DONE, ERR and ECODE, and changes
nothing else of the block; nothing about the word is checked, and an illegal one then completes with ILLEGAL_CMD. (`delay`,
`latNext` and `draws` are the model's own, log entries 1 and 6, and nothing is said of them.) -/
def Obligations.CommandWriteIsAcceptedUnchecked : Prop :=
  ∀ (s : State) (w : Word), s.seq = .idle → ∃ t,
    memWrite 0x004#10 w s = ⟨.ok, t⟩ ∧
    t = { s with curCmd := w, seq := .busy, done := false, err := false, ecode := .ok,
                 delay := t.delay, latNext := t.latNext, draws := t.draws } ∧
    t.statusWord.toNat % 256 = 1 ∧
    ((∀ i, Sys2Proof.decode w ≠ .instr i) → ∃ u, engineStep t = .next u ∧ u.seq = .idle ∧ u.ecode = .illegalCmd)

/-- R177: an accepted command completes, after any finite number of host accesses. From every BUSY state whose pending actions hold
no misaligned access, SEQ has left BUSY after at most `delay` + the number of pending actions + 1 steps. And for every number
`n`: after an acceptance under the premise of LATENCY `n`, with `n` or more aligned host accesses pending, SEQ is still BUSY
after each of the first `n` of them, and has left BUSY one step later. (How the number is held and premised is the model's, log
entry 6.) -/
def Obligations.CompletionIsGuaranteed : Prop :=
  (∀ s : State, s.seq = .busy → (∀ a ∈ s.actions, a.misaligned = false) →
    ∃ k t, k ≤ s.delay + s.actions.length + 1 ∧ Host.Core.run Sys2Proof.core k s = .next t ∧ t.seq ≠ .busy) ∧
  (∀ (s : State) (w : Word) (n : Nat), s.seq = .idle → s.latNext = some n → n ≤ s.actions.length →
    (∀ a ∈ s.actions, a.alignedAccess = true) →
    (memWrite 0x004#10 w s).after.delay = n ∧
    (∀ k ≤ n, ∃ t, Host.Core.run Sys2Proof.core k (memWrite 0x004#10 w s).after = .next t ∧ t.seq = .busy) ∧
    ∃ t, Host.Core.run Sys2Proof.core (n + 1) (memWrite 0x004#10 w s).after = .next t ∧ t.seq ≠ .busy)

/-- R162: with no command executing and nothing pending the block stays as it is. -/
def Obligations.QuietBlockStaysAsItIs : Prop :=
  ∀ s : State, s.seq ≠ .busy → s.actions = [] → step s = .next s

/-- R63: from acceptance to completion nothing but reset changes a command's inputs or the latched word. A step of a BUSY block
that is neither the engine's completion nor reset changes at most OVR and the model's own fields. -/
def Obligations.NothingChangesUnderABusyCommand : Prop :=
  ∀ s t : State, s.seq = .busy → s.delay ≠ 0 → s.actions ≠ [] → (∀ rest, s.actions ≠ .rst :: rest) → step s = .next t →
    t = { s with ovr := t.ovr, draws := t.draws, actions := t.actions, reads := t.reads, delay := t.delay,
                 latNext := t.latNext, clkNext := t.clkNext }

/-- R78, R79: what each pending action does when it is its turn: an aligned write and an aligned read go over the bus and are
counted against LATENCY, the read's value is kept, WAIT stays while it reads BUSY = 1 and goes when it reads 0, and CLK and the
LATENCY premise fix what comes next (log entries 5, 6, 10 and 18). -/
def Obligations.PendingActionsDoWhatTheyName : Prop :=
  ∀ (s : State) (rest : List Action), ¬ (s.seq = .busy ∧ s.delay = 0) →
    (∀ off v, off.toNat % 4 = 0 → s.actions = .write off v :: rest →
      step s = .next (memWrite off v { s with actions := rest, delay := s.delay - 1 }).after) ∧
    (∀ off, off.toNat % 4 = 0 → s.actions = .read off :: rest →
      step s = .next { (memRead off { s with actions := rest, delay := s.delay - 1 }).after with
        reads := (memRead off s).data :: s.reads }) ∧
    (s.actions = .wait :: rest → s.seq = .busy →
      step s = .next { s with delay := s.delay - 1, reads := s.statusWord :: s.reads }) ∧
    (s.actions = .wait :: rest → s.seq ≠ .busy →
      step s = .next { s with actions := rest, delay := s.delay - 1, reads := s.statusWord :: s.reads }) ∧
    (∀ r, s.actions = .clk r :: rest → step s = .next { s with actions := rest, clkNext := some r }) ∧
    (∀ n, s.actions = .latency n :: rest → step s = .next { s with actions := rest, latNext := some n })

/-- R79 `LOADIN`: on a block that is not BUSY, running the expansion for a text of at most 256 bytes leaves those bytes in IN_BUF
from index 0 and their number in IN_LEN. -/
def Obligations.LoadInPutsTheTextInPlace : Prop :=
  ∀ (s : State) (l : List Byte), s.seq ≠ .busy → l.length ≤ 256 →
    ∃ t, Host.Core.run Sys2Proof.core (loadIn l).length { s with actions := loadIn l } = .next t ∧
      t.inLen.toNat = l.length ∧ t.inBytes l.length = l ∧ t.actions = [] ∧ t.seq = s.seq

/-- R79 `RUN`: on an IDLE block, writing CMD and polling STATUS ends, and leaves what `exec` of the command leaves from the accepted
state, whatever the LATENCY. (What the polls read is kept in `reads`, and `delay` is used up: log entries 6, 10 and 18.) -/
def Obligations.RunOfACommandIsItsExecution : Prop :=
  ∀ (i : Instr) (s : State), s.seq = .idle → ∃ k t u,
    Host.Core.run Sys2Proof.core k { s with actions := runCmd i } = .next t ∧
    exec i (memWrite 0x004#10 (encode i) { s with actions := [] }).after = .next u ∧
    t = { u with reads := t.reads, delay := t.delay }

/-! ### The invariant -/

/-- Every step keeps the invariant: canonical memory, STATUS that agrees with SEQ, OUT_LEN at most 256, a valid key of at most 160
bytes, CODE below 10^9 (R19, R24, R28, R35, R155, R156). -/
def Obligations.EveryStepKeepsTheInvariant : Prop :=
  ∀ s t : State, s.inv → step s = .next t → t.inv

/-- The invariant holds right after reset. -/
def Obligations.ResetStateHasTheInvariant : Prop := State.reset.inv

/-! ### Reset and the fatal fault -/

/-- R166: right after reset SEQ is IDLE, and a read of every aligned offset outside the two buffers gives the listed reset value:
ID its constant, DIGITS 6, STEP_SIZE_LO 30, every other one 0. (The buffers and CUR_CMD are unspecified there.) -/
def Obligations.ResetRegistersReadAsListed : Prop :=
  State.reset.seq = .idle ∧
  ∀ off : Offset, off.toNat % 4 = 0 → ¬ (0x100 ≤ off.toNat ∧ off.toNat < 0x300) →
    memRead off State.reset =
      ⟨.ok, if off = 0x000#10 then 0x42335431#32 else if off = 0x014#10 then 6#32
            else if off = 0x018#10 then 30#32 else 0#32, State.reset⟩

/-- R165, R166: from every state, BUSY and FAULTED ones too, an asserted `rst` goes before anything else and puts every piece of the
block's state to its reset value; the bytes of the buffers are free. No host access is answered or used up in that step: nothing
is added to `reads`, and the actions behind the `rst` stay pending. (That an assertion of `rst` is one action and one step is the
model's form, log entry 7. CUR_CMD is unspecified after reset, and nothing is said of it, nor of the premises `latNext` and
`clkNext`, log entries 4 and 7.) -/
def Obligations.ResetGoesFirstFromEveryState : Prop :=
  ∀ (s : State) (rest : List Action), s.actions = .rst :: rest → ∃ t, step s = .next t ∧
    t = { State.reset with curCmd := t.curCmd, inFill := t.inFill, outFill := t.outFill, draws := t.draws,
                           actions := rest, reads := s.reads, latNext := t.latNext, clkNext := t.clkNext } ∧
    ∀ a, t.byteAt a = Config.freeByte s.draws a

/-- R155: with every check passed and a clock before the epoch, TSTEP and TOTP enter FAULTED: DONE = ERR = FAULT = 1, ECODE = 15,
BUSY = 0, and nothing else of the block changes. (`clkNext` and `draws` are the model's own, log entry 5.) -/
def Obligations.ClockBeforeEpochFaults : Prop :=
  ∀ s : State, s.clockSample = .beforeEpoch → 1 ≤ s.stepSize.toNat → s.stepSize.toNat ≤ 255 → ∃ t,
    t = { s with seq := .faulted, done := true, err := true, ecode := .clockBeforeEpoch,
                 clkNext := t.clkNext, draws := t.draws } ∧
    exec .tstep s = .next t ∧
    (∀ k, s.keyReady k → 1 ≤ s.digits.toNat → s.digits.toNat ≤ 9 → exec (.totp k) s = .next t) ∧
    t.statusWord.toNat % 256 = 0xFE

/-- R127: HMAC, TRUNC, MODC, CODE, VALIDATE and DECODE cannot fault, and they read no clock: a different premise on the clock
changes nothing of what they do. -/
def Obligations.OnlyTstepAndTotpReadTheClockOrFault : Prop :=
  ∀ (i : Instr) (s t : State), exec i s = .next t →
    (t.seq = .faulted → i = .tstep ∨ ∃ k, i = .totp k) ∧
    ((i ≠ .tstep ∧ ∀ k, i ≠ .totp k) → ∀ r, exec i { s with clkNext := r } = .next { t with clkNext := r })

/-- R156: in FAULTED a CMD write is dropped and sets no OVR, every other aligned write acts as on an IDLE block, every read gives
what an IDLE block's would (but for STATUS, which shows SEQ), and no step but reset leaves FAULTED or changes DONE, ERR or
ECODE. -/
def Obligations.OnlyResetLeavesFaulted : Prop :=
  ∀ s : State, s.seq = .faulted →
    (∀ v, memWrite 0x004#10 v s = ⟨.ok, s⟩) ∧
    (∀ off v, off ≠ 0x004#10 →
      (memWrite off v s).after = { (memWrite off v { s with seq := .idle }).after with seq := .faulted }) ∧
    (∀ off, off ≠ 0x008#10 →
      (memRead off s).after = s ∧ (memRead off s).data = (memRead off { s with seq := .idle }).data) ∧
    (∀ t, step s = .next t →
      (t.seq = .faulted ∧ t.done = s.done ∧ t.err = s.err ∧ t.ecode = s.ecode) ∨ ∃ rest, s.actions = .rst :: rest)

/-! ### The host's accesses -/

/-- R54: an access at an offset with bits [1:0] ≠ 0 is a bus error. The write changes nothing, the read gives 0, and a step that
does such an access stops with the fault of that access. -/
def Obligations.MisalignedAccessIsABusError : Prop :=
  ∀ (s : State) (off : Offset) (v : Word), off.toNat % 4 ≠ 0 →
    memRead off s = ⟨.busError, 0#32, s⟩ ∧ memWrite off v s = ⟨.busError, s⟩ ∧
    (¬ (s.seq = .busy ∧ s.delay = 0) → ∀ rest,
      (s.actions = .read off :: rest → step s = .fault (.busError off)) ∧
      (s.actions = .write off v :: rest → step s = .fault (.busError off)))

/-- R25, R178: while BUSY every aligned write to an offset other than STATUS is dropped and sets OVR; a STATUS write is never
dropped, clears OVR by bit 8 and has no other effect; no command reads or changes OVR; a step that takes OVR from 0 to 1 is such
a dropped write; and OVR, once 1, stays 1 over every step but a reset and a STATUS write with bit 8 = 1. -/
def Obligations.OverrunIsSetByDroppedWritesOnly : Prop :=
  (∀ (s : State) (off : Offset) (v : Word), s.seq = .busy → off.toNat % 4 = 0 → off ≠ 0x008#10 →
    memWrite off v s = ⟨.ok, { s with ovr := true }⟩) ∧
  (∀ (s : State) (v : Word), memWrite 0x008#10 v s = ⟨.ok, if v.getLsbD 8 then { s with ovr := false } else s⟩) ∧
  (∀ (i : Instr) (s t : State) (b : Bool), exec i s = .next t →
    t.ovr = s.ovr ∧ exec i { s with ovr := b } = .next { t with ovr := b }) ∧
  (∀ s t : State, step s = .next t → s.ovr = false → t.ovr = true →
    s.seq = .busy ∧ ∃ off v rest, off.toNat % 4 = 0 ∧ off ≠ 0x008#10 ∧ s.actions = .write off v :: rest) ∧
  (∀ s t : State, step s = .next t → s.ovr = true → t.ovr = false →
    (∃ rest, s.actions = .rst :: rest) ∨ ∃ v rest, v.getLsbD 8 = true ∧ s.actions = .write 0x008#10 v :: rest)

/-- R179: while BUSY an aligned read of a result register gives a free value and changes no state of the block, and a read of ID,
STATUS, IN_LEN, IN_BUF, DIGITS or STEP_SIZE gives the stored value. -/
def Obligations.ReadsWhileBusy : Prop :=
  ∀ (s : State) (off : Offset), s.seq = .busy → off.toNat % 4 = 0 →
    ((off.toNat = 0x010 ∨ (0x020 ≤ off.toNat ∧ off.toNat ≤ 0x038) ∨ (0x040 ≤ off.toNat ∧ off.toNat ≤ 0x050) ∨
        (0x200 ≤ off.toNat ∧ off.toNat < 0x300)) →
      memRead off s = ⟨.ok, Config.freeWord s.draws, { s with draws := s.draws + 1 }⟩) ∧
    (off = 0x000#10 → memRead off s = ⟨.ok, 0x42335431#32, s⟩) ∧
    (off = 0x008#10 → memRead off s = ⟨.ok, s.statusWord, s⟩) ∧
    (off = 0x00C#10 → memRead off s = ⟨.ok, s.inLen.setWidth 32, s⟩) ∧
    (off = 0x014#10 → memRead off s = ⟨.ok, s.digits.setWidth 32, s⟩) ∧
    (off = 0x018#10 → memRead off s = ⟨.ok, s.stepSize.extractLsb' 0 32, s⟩) ∧
    (off = 0x01C#10 → memRead off s = ⟨.ok, s.stepSize.extractLsb' 32 32, s⟩) ∧
    (0x100 ≤ off.toNat → off.toNat < 0x200 → ∃ w, memRead off s = ⟨.ok, w, s⟩ ∧
      ∀ j < 4, w.extractLsb' (8 * j) 8 = s.byteAt (off.toNat + j))

/-- R20, R22 to R38, R56, R65: on a block that is not BUSY every register and every buffer word reads OK as its stored value, its
reserved bits 0, and CMD reads 0; a read changes nothing. While BUSY, CMD still reads 0 (R65). -/
def Obligations.RegistersReadAsStored : Prop :=
  (∀ s : State, memRead 0x004#10 s = ⟨.ok, 0#32, s⟩) ∧
  ∀ s : State, s.seq ≠ .busy →
    memRead 0x000#10 s = ⟨.ok, 0x42335431#32, s⟩ ∧
    memRead 0x008#10 s = ⟨.ok, s.statusWord, s⟩ ∧ memRead 0x00C#10 s = ⟨.ok, s.inLen.setWidth 32, s⟩ ∧
    memRead 0x010#10 s = ⟨.ok, s.outLen.setWidth 32, s⟩ ∧ memRead 0x014#10 s = ⟨.ok, s.digits.setWidth 32, s⟩ ∧
    memRead 0x018#10 s = ⟨.ok, s.stepSize.extractLsb' 0 32, s⟩ ∧
    memRead 0x01C#10 s = ⟨.ok, s.stepSize.extractLsb' 32 32, s⟩ ∧
    memRead 0x020#10 s = ⟨.ok, s.counter.extractLsb' 0 32, s⟩ ∧
    memRead 0x024#10 s = ⟨.ok, s.counter.extractLsb' 32 32, s⟩ ∧
    memRead 0x028#10 s = ⟨.ok, s.time.extractLsb' 0 32, s⟩ ∧ memRead 0x02C#10 s = ⟨.ok, s.time.extractLsb' 32 32, s⟩ ∧
    memRead 0x030#10 s = ⟨.ok, s.remain.setWidth 32, s⟩ ∧ memRead 0x034#10 s = ⟨.ok, s.trunc.setWidth 32, s⟩ ∧
    memRead 0x038#10 s = ⟨.ok, s.code, s⟩ ∧ memRead 0x040#10 s = ⟨.ok, s.digest.w0, s⟩ ∧
    memRead 0x044#10 s = ⟨.ok, s.digest.w1, s⟩ ∧ memRead 0x048#10 s = ⟨.ok, s.digest.w2, s⟩ ∧
    memRead 0x04C#10 s = ⟨.ok, s.digest.w3, s⟩ ∧ memRead 0x050#10 s = ⟨.ok, s.digest.w4, s⟩ ∧
    ∀ off : Offset, off.toNat % 4 = 0 → 0x100 ≤ off.toNat → off.toNat < 0x300 →
      memRead off s = ⟨.ok, s.byteAt (off.toNat + 3) ++ s.byteAt (off.toNat + 2) ++ s.byteAt (off.toNat + 1)
        ++ s.byteAt off.toNat, s⟩

/-- R52: byte lanes are little-endian for IN_BUF, OUT_BUF and DIGEST, and a 64-bit pair has bits [31:0] in `_LO`, at the lower
offset, and bits [63:32] in `_HI`. -/
def Obligations.ByteLanesAreLittleEndian : Prop :=
  ∀ s : State, s.seq ≠ .busy →
    (∀ i < 256, (memRead (BitVec.ofNat 10 (0x100 + 4 * (i / 4))) s).data.extractLsb' (8 * (i % 4)) 8 = s.inByte i) ∧
    (∀ i < 256, (memRead (BitVec.ofNat 10 (0x200 + 4 * (i / 4))) s).data.extractLsb' (8 * (i % 4)) 8 = s.outByte i) ∧
    (∀ i : Fin 20, (memRead (BitVec.ofNat 10 (0x040 + 4 * (i.val / 4))) s).data.extractLsb' (8 * (i.val % 4)) 8
      = s.digest.byte i) ∧
    (memRead 0x01C#10 s).data ++ (memRead 0x018#10 s).data = s.stepSize ∧
    (memRead 0x024#10 s).data ++ (memRead 0x020#10 s).data = s.counter ∧
    (memRead 0x02C#10 s).data ++ (memRead 0x028#10 s).data = s.time

/-- R27, R29 to R31, R34, R36, R37, R66: on a block that is not BUSY, what the host writes to an RW register or to an IN_BUF word
it reads back, IN_LEN keeping 16 bits, DIGITS 8 and TRUNC 31. -/
def Obligations.HostWritesReadBack : Prop :=
  ∀ (s : State) (off : Offset) (v : Word), s.seq ≠ .busy → off.toNat % 4 = 0 →
    (off = 0x00C#10 → (memRead off (memWrite off v s).after).data = v &&& 0x0000FFFF#32) ∧
    (off = 0x014#10 → (memRead off (memWrite off v s).after).data = v &&& 0x000000FF#32) ∧
    (off = 0x034#10 → (memRead off (memWrite off v s).after).data = v &&& 0x7FFFFFFF#32) ∧
    ((0x018 ≤ off.toNat ∧ off.toNat ≤ 0x024) ∨ (0x040 ≤ off.toNat ∧ off.toNat ≤ 0x050) ∨
        (0x100 ≤ off.toNat ∧ off.toNat < 0x200) →
      (memRead off (memWrite off v s).after).data = v)

/-- R27, R29 to R31, R34, R36, R66, R182: on a block that is not BUSY a host write to an RW register changes that register and
nothing else, and one to half of a 64-bit pair keeps the other half. -/
def Obligations.HostWritesChangeOnlyTheirRegister : Prop :=
  ∀ (s : State) (v : Word), s.seq ≠ .busy →
    memWrite 0x00C#10 v s = ⟨.ok, { s with inLen := v.extractLsb' 0 16 }⟩ ∧
    memWrite 0x014#10 v s = ⟨.ok, { s with digits := v.extractLsb' 0 8 }⟩ ∧
    memWrite 0x018#10 v s = ⟨.ok, { s with stepSize := s.stepSize.extractLsb' 32 32 ++ v }⟩ ∧
    memWrite 0x01C#10 v s = ⟨.ok, { s with stepSize := v ++ s.stepSize.extractLsb' 0 32 }⟩ ∧
    memWrite 0x020#10 v s = ⟨.ok, { s with counter := s.counter.extractLsb' 32 32 ++ v }⟩ ∧
    memWrite 0x024#10 v s = ⟨.ok, { s with counter := v ++ s.counter.extractLsb' 0 32 }⟩ ∧
    memWrite 0x034#10 v s = ⟨.ok, { s with trunc := v.extractLsb' 0 31 }⟩ ∧
    memWrite 0x040#10 v s = ⟨.ok, { s with digest := { s.digest with w0 := v } }⟩ ∧
    memWrite 0x044#10 v s = ⟨.ok, { s with digest := { s.digest with w1 := v } }⟩ ∧
    memWrite 0x048#10 v s = ⟨.ok, { s with digest := { s.digest with w2 := v } }⟩ ∧
    memWrite 0x04C#10 v s = ⟨.ok, { s with digest := { s.digest with w3 := v } }⟩ ∧
    memWrite 0x050#10 v s = ⟨.ok, { s with digest := { s.digest with w4 := v } }⟩

/-- R37, R52, R66: a host write to an IN_BUF word on a block that is not BUSY stores its four bytes at the word's offset, lowest
byte first, and changes no other byte and no register. -/
def Obligations.HostWriteToInBufStoresFourBytes : Prop :=
  ∀ (s : State) (off : Offset) (v : Word), s.seq ≠ .busy → off.toNat % 4 = 0 → 0x100 ≤ off.toNat → off.toNat < 0x200 →
    ∃ t, memWrite off v s = ⟨.ok, t⟩ ∧ t = { s with mem := t.mem } ∧
      (∀ j < 4, t.byteAt (off.toNat + j) = v.extractLsb' (8 * j) 8) ∧
      (∀ a, a < off.toNat ∨ off.toNat + 4 ≤ a → t.byteAt a = s.byteAt a)

/-- R21, R39: a reserved offset reads 0 in every state; and on a block that is not BUSY a write to an RO register or a reserved
offset changes nothing and is no error, and the read-only fields of IN_LEN, DIGITS and TRUNC ignore what is written to them.
(While BUSY every such write is dropped as R178 says.) -/
def Obligations.ReadOnlyAndReservedIgnoreWrites : Prop :=
  ∀ (s : State) (off : Offset) (v : Word), off.toNat % 4 = 0 →
    (off.toNat = 0x03C ∨ (0x054 ≤ off.toNat ∧ off.toNat < 0x100) ∨ 0x300 ≤ off.toNat → memRead off s = ⟨.ok, 0#32, s⟩) ∧
    (s.seq ≠ .busy →
      (off.toNat ∈ [0x000, 0x010, 0x028, 0x02C, 0x030, 0x038] ∨ (0x200 ≤ off.toNat ∧ off.toNat < 0x300) →
        memWrite off v s = ⟨.ok, s⟩) ∧
      (off.toNat = 0x03C ∨ (0x054 ≤ off.toNat ∧ off.toNat < 0x100) ∨ 0x300 ≤ off.toNat → memWrite off v s = ⟨.ok, s⟩) ∧
      memWrite 0x00C#10 v s = memWrite 0x00C#10 (v &&& 0x0000FFFF#32) s ∧
      memWrite 0x014#10 v s = memWrite 0x014#10 (v &&& 0x000000FF#32) s ∧
      memWrite 0x034#10 v s = memWrite 0x034#10 (v &&& 0x7FFFFFFF#32) s)

/-- R24, R146: the bits of the STATUS word, and the number of each result code. -/
def Obligations.StatusWordIsLaidOutAsListed : Prop :=
  ∀ s : State,
    (s.statusWord.getLsbD 0 = true ↔ s.seq = .busy) ∧ s.statusWord.getLsbD 1 = s.done ∧ s.statusWord.getLsbD 2 = s.err ∧
    (s.statusWord.getLsbD 3 = true ↔ s.seq = .faulted) ∧ s.statusWord.getLsbD 8 = s.ovr ∧ s.statusWord.getLsbD 9 = s.kvalid ∧
    s.statusWord.toNat / 1024 = 0 ∧
    s.statusWord.toNat / 16 % 16 =
      (match s.ecode with
       | .ok => 0 | .nonAscii => 1 | .invalidChar => 2 | .illegalCmd => 3 | .badLength => 4 | .badStep => 5
       | .badDigits => 6 | .noKey => 7 | .clockBeforeEpoch => 15)

/-! ### Errors -/

/-- R145: every command, from every state, ends in exactly one of the three outcomes. -/
def Obligations.EveryCommandEndsInOneOfThreeOutcomes : Prop :=
  ∀ (i : Instr) (s : State), ∃ t, exec i s = .next t ∧ t.done = true ∧
    ((t.seq = .idle ∧ t.err = false ∧ t.ecode = .ok) ∨
     (t.seq = .idle ∧ t.err = true ∧ t.ecode ≠ .ok ∧ t.ecode ≠ .clockBeforeEpoch) ∨
     (t.seq = .faulted ∧ t.err = true ∧ t.ecode = .clockBeforeEpoch))

/-- R147: ILLEGAL_CMD for a word that does not decode, and for every command the first check in the order of R147 that applies to
it and fails, each check written in plain numbers (`expectedCode`). -/
def Obligations.FirstFailingCheckIsReported : Prop :=
  (∀ s t : State, (∀ i, Sys2Proof.decode s.curCmd ≠ .instr i) → engineStep s = .next t → t.ecode = .illegalCmd) ∧
  (∀ (i : Instr) (s t : State), exec i s = .next t → t.ecode = expectedCode i s)

/-- R97, and the error rows of R148: what each error and the fault change beyond SEQ and STATUS: nothing, or, for NON_ASCII and
INVALID_CHAR, OUT_LEN and KVALID cleared and every OUT_BUF byte a new free value. (`outFill`, `draws` and `clkNext` are the
model's own, log entries 1, 3 and 5.) -/
def Obligations.ErrorsChangeOnlyWhatIsListed : Prop :=
  (∀ s t : State, engineStep s = .next t → t.ecode = .illegalCmd →
    t = { s with seq := .idle, done := true, err := true, ecode := .illegalCmd }) ∧
  (∀ (i : Instr) (s t : State), exec i s = .next t →
    (t.ecode ∈ [ECode.badLength, .noKey, .badStep, .badDigits] →
      t = { s with seq := .idle, done := true, err := true, ecode := t.ecode }) ∧
    (t.ecode ∈ [ECode.nonAscii, .invalidChar] →
      t = { s with seq := .idle, done := true, err := true, ecode := t.ecode, outLen := 0#16, kvalid := false,
                   mem := t.mem, outFill := t.outFill, draws := t.draws } ∧
      (∀ j < 256, t.outByte j = Config.freeByte s.draws (0x200 + j)) ∧
      (∀ a, a < 0x200 ∨ 0x300 ≤ a → t.byteAt a = s.byteAt a)) ∧
    (t.ecode = .clockBeforeEpoch →
      t = { s with seq := .faulted, done := true, err := true, ecode := .clockBeforeEpoch,
                   clkNext := t.clkNext, draws := t.draws }))

/-- R26: KVALID is set by a DECODE that succeeds, cleared by a VALIDATE that succeeds and by a VALIDATE or DECODE that ends in
NON_ASCII or INVALID_CHAR, and by reset; nothing else changes it; and the commands with KSRC = 1 end in NO_KEY when it is 0. -/
def Obligations.KeyValidFollowsItsCases : Prop :=
  (∀ (i : Instr) (s t : State), exec i s = .next t →
    t.kvalid = (if i = .decode ∧ t.ecode = .ok then true
                else if (i = .validate ∨ i = .decode) ∧ t.ecode ≠ .badLength then false else s.kvalid)) ∧
  (∀ s t : State, step s = .next t → t.kvalid ≠ s.kvalid →
    (∃ rest, s.actions = .rst :: rest ∧ t.kvalid = false) ∨
    (s.seq = .busy ∧ (Sys2Proof.decode s.curCmd = .instr .validate ∨ Sys2Proof.decode s.curCmd = .instr .decode))) ∧
  (∀ (s t : State) (i : Instr), i = .hmac .outBuf ∨ i = .code .outBuf ∨ i = .totp .outBuf → s.kvalid = false →
    exec i s = .next t → t.ecode = .noKey)

/-! ### Results of the commands -/

/-- R90: VALIDATE of a text of at most 256 bytes of `[A-Za-z2-7]` completes, with the upper-cased text in OUT_BUF, OUT_LEN = n and
KVALID = 0; the bytes of OUT_BUF from index n on are free. -/
def Obligations.ValidateDeliversTheUpperCasedText : Prop :=
  ∀ s : State, s.inLen.toNat ≤ 256 → (∀ j < s.inLen.toNat, base32Char (s.inByte j) = true) →
    ∃ t, exec .validate s = .next t ∧ t.outLen = s.inLen ∧ t.kvalid = false ∧
      t.seq = .idle ∧ t.done = true ∧ t.err = false ∧ t.ecode = .ok ∧
      (∀ j < s.inLen.toNat, (t.outByte j).toNat =
        (if 0x61 ≤ (s.inByte j).toNat then (s.inByte j).toNat - 0x20 else (s.inByte j).toNat)) ∧
      ∀ j, s.inLen.toNat ≤ j → j < 256 → t.outByte j = Config.freeByte s.draws (0x200 + j)

/-- R91, R92, R94: DECODE of such a text completes, with OUT_LEN = floor(5n/8) and KVALID = 1, and bit `7 - p` of output byte `j` is
bit `4 - (8j+p) mod 5` of the value of symbol `(8j+p) div 5`; the bytes of OUT_BUF from index OUT_LEN on are free. -/
def Obligations.DecodeDeliversTheBitStream : Prop :=
  ∀ s : State, s.inLen.toNat ≤ 256 → (∀ j < s.inLen.toNat, base32Char (s.inByte j) = true) →
    ∃ t, exec .decode s = .next t ∧ t.outLen.toNat = 5 * s.inLen.toNat / 8 ∧ t.kvalid = true ∧
      t.seq = .idle ∧ t.done = true ∧ t.err = false ∧ t.ecode = .ok ∧
      (∀ j < 5 * s.inLen.toNat / 8, ∀ p < 8,
        (t.outByte j).getLsbD (7 - p) =
          (base32Value (s.inByte ((8 * j + p) / 5))).testBit (4 - (8 * j + p) % 5)) ∧
      ∀ j, 5 * s.inLen.toNat / 8 ≤ j → j < 256 → t.outByte j = Config.freeByte s.draws (0x200 + j)

/-- R100, R101: with a step size of 1 to 255 and a clock reading `t`, TSTEP completes: TIME = t, COUNTER = t div s and
REMAIN = s - t mod s as exact numbers; with another step size it ends in BAD_STEP, and with a clock before the epoch in the
fault; and nothing else of the block changes but SEQ and STATUS. (`clkNext` and `draws` are the model's own, log entry 5.) -/
def Obligations.TstepWritesTheTimeStep : Prop :=
  ∀ s : State,
    (∀ t : DWord, 1 ≤ s.stepSize.toNat → s.stepSize.toNat ≤ 255 → s.clockSample = .secs t →
      ∃ c r p n, exec .tstep s = .next { s with time := t, counter := c, remain := r, seq := .idle, done := true,
                                                err := false, ecode := .ok, clkNext := p, draws := n } ∧
        c.toNat = t.toNat / s.stepSize.toNat ∧ r.toNat = s.stepSize.toNat - t.toNat % s.stepSize.toNat) ∧
    (s.stepSize.toNat = 0 ∨ 255 < s.stepSize.toNat →
      exec .tstep s = .next { s with seq := .idle, done := true, err := true, ecode := .badStep }) ∧
    (1 ≤ s.stepSize.toNat → s.stepSize.toNat ≤ 255 → s.clockSample = .beforeEpoch →
      ∃ p n, exec .tstep s = .next { s with seq := .faulted, done := true, err := true, ecode := .clockBeforeEpoch,
                                            clkNext := p, draws := n })

/-- R107, R108: with its key there, HMAC completes: `DIGEST[i]` is byte `i` of HMAC-SHA1 of the key over the big-endian step
index, and nothing else of the block changes but SEQ and STATUS; with IN_LEN > 256 for `key=in` it ends in BAD_LENGTH, and with
KVALID = 0 for `key=out` in NO_KEY, and changes nothing but SEQ and STATUS. -/
def Obligations.HmacWritesTheDigest : Prop :=
  ∀ (k : KeySource) (s : State),
    (s.keyReady k →
      ∃ d, exec (.hmac k) s = .next { s with digest := d, seq := .idle, done := true, err := false, ecode := .ok } ∧
        d.bytes = s.hmacOver k s.counter) ∧
    (256 < s.inLen.toNat →
      exec (.hmac .inBuf) s = .next { s with seq := .idle, done := true, err := true, ecode := .badLength }) ∧
    (s.kvalid = false →
      exec (.hmac .outBuf) s = .next { s with seq := .idle, done := true, err := true, ecode := .noKey })

/-- R111 to R113: TRUNC completes from every state: TRUNC is the 31-bit value of the window that byte 19 selects, and nothing
else of the block changes but SEQ and STATUS. -/
def Obligations.TruncSelectsTheWindow : Prop :=
  ∀ s : State, ∃ v, exec .trunc s = .next { s with trunc := v, seq := .idle, done := true, err := false, ecode := .ok } ∧
    v.toNat = windowValue s.digest

/-- R117, R118: with 1 to 9 digits MODC completes with CODE = TRUNC mod 10^digits and changes nothing else of the block but SEQ
and STATUS; with any other count it ends in BAD_DIGITS. -/
def Obligations.ModcReducesByDigits : Prop :=
  ∀ s : State,
    (1 ≤ s.digits.toNat → s.digits.toNat ≤ 9 →
      ∃ c, exec .modc s = .next { s with code := c, seq := .idle, done := true, err := false, ecode := .ok } ∧
        c.toNat = s.trunc.toNat % 10 ^ s.digits.toNat) ∧
    (s.digits.toNat = 0 ∨ 10 ≤ s.digits.toNat →
      exec .modc s = .next { s with seq := .idle, done := true, err := true, ecode := .badDigits })

/-- R119, R121: with its key there and 1 to 9 digits, CODE completes with DIGEST, TRUNC and CODE of steps 1 to 4 at the step index
in COUNTER, and changes nothing else of the block but SEQ and STATUS; otherwise it ends in the first of BAD_LENGTH, NO_KEY and
BAD_DIGITS that applies and changes nothing but SEQ and STATUS. -/
def Obligations.CodeRunsStepsOneToFour : Prop :=
  ∀ (k : KeySource) (s : State),
    (s.keyReady k → 1 ≤ s.digits.toNat → s.digits.toNat ≤ 9 →
      ∃ d v c, exec (.code k) s = .next { s with digest := d, trunc := v, code := c, seq := .idle, done := true,
                                                 err := false, ecode := .ok } ∧
        d.bytes = s.hmacOver k s.counter ∧ v.toNat = windowValue d ∧ c.toNat = v.toNat % 10 ^ s.digits.toNat) ∧
    (k = .inBuf → 256 < s.inLen.toNat →
      exec (.code k) s = .next { s with seq := .idle, done := true, err := true, ecode := .badLength }) ∧
    (k = .outBuf → s.kvalid = false →
      exec (.code k) s = .next { s with seq := .idle, done := true, err := true, ecode := .noKey }) ∧
    (s.keyReady k → s.digits.toNat = 0 ∨ 9 < s.digits.toNat →
      exec (.code k) s = .next { s with seq := .idle, done := true, err := true, ecode := .badDigits })

/-- R100, R119, R124: with every check passed and a clock reading `t`, TOTP completes with TIME, COUNTER and REMAIN of the time
step and DIGEST, TRUNC and CODE of steps 1 to 4 at the step index just written, and changes nothing else of the block but SEQ
and STATUS; with a check failed it ends in the first of BAD_LENGTH, NO_KEY, BAD_STEP and BAD_DIGITS that applies, and with a clock
before the epoch in the fault, and changes nothing but SEQ and STATUS. (`clkNext` and `draws` are the model's own, log entry
5.) -/
def Obligations.TotpRunsTheWholeContract : Prop :=
  ∀ (k : KeySource) (s : State),
    (∀ t : DWord, s.keyReady k → 1 ≤ s.stepSize.toNat → s.stepSize.toNat ≤ 255 →
      1 ≤ s.digits.toNat → s.digits.toNat ≤ 9 → s.clockSample = .secs t →
      ∃ n r d v c p m, exec (.totp k) s = .next { s with time := t, counter := n, remain := r, digest := d, trunc := v,
                                                         code := c, seq := .idle, done := true, err := false, ecode := .ok,
                                                         clkNext := p, draws := m } ∧
        n.toNat = t.toNat / s.stepSize.toNat ∧ r.toNat = s.stepSize.toNat - t.toNat % s.stepSize.toNat ∧
        d.bytes = s.hmacOver k n ∧ v.toNat = windowValue d ∧ c.toNat = v.toNat % 10 ^ s.digits.toNat) ∧
    (k = .inBuf → 256 < s.inLen.toNat →
      exec (.totp k) s = .next { s with seq := .idle, done := true, err := true, ecode := .badLength }) ∧
    (k = .outBuf → s.kvalid = false →
      exec (.totp k) s = .next { s with seq := .idle, done := true, err := true, ecode := .noKey }) ∧
    (s.keyReady k → s.stepSize.toNat = 0 ∨ 255 < s.stepSize.toNat →
      exec (.totp k) s = .next { s with seq := .idle, done := true, err := true, ecode := .badStep }) ∧
    (s.keyReady k → 1 ≤ s.stepSize.toNat → s.stepSize.toNat ≤ 255 → s.digits.toNat = 0 ∨ 9 < s.digits.toNat →
      exec (.totp k) s = .next { s with seq := .idle, done := true, err := true, ecode := .badDigits }) ∧
    (s.keyReady k → 1 ≤ s.stepSize.toNat → s.stepSize.toNat ≤ 255 → 1 ≤ s.digits.toNat → s.digits.toNat ≤ 9 →
      s.clockSample = .beforeEpoch →
      ∃ p m, exec (.totp k) s = .next { s with seq := .faulted, done := true, err := true, ecode := .clockBeforeEpoch,
                                               clkNext := p, draws := m })

/-! ### Frames -/

/-- R42, R109: the frame of the six commands that store no byte (TSTEP, HMAC, TRUNC, MODC, CODE, TOTP), whatever their outcome:
every byte of both buffers and every register outside the command's row of the write matrix is unchanged; TIME, COUNTER and
REMAIN change only by TSTEP and TOTP, DIGEST only by HMAC, CODE and TOTP, TRUNC only by TRUNC, CODE and TOTP, CODE only by MODC,
CODE and TOTP; OVR and KVALID never. -/
def Obligations.CodeGeneratorCommandsKeepTheRest : Prop :=
  ∀ (i : Instr) (s t : State), i ≠ .validate → i ≠ .decode → exec i s = .next t →
    (∀ a, t.byteAt a = s.byteAt a) ∧ t.mem = s.mem ∧
    t.curCmd = s.curCmd ∧ t.ovr = s.ovr ∧ t.kvalid = s.kvalid ∧ t.inLen = s.inLen ∧ t.outLen = s.outLen ∧
    t.digits = s.digits ∧ t.stepSize = s.stepSize ∧
    ((i ≠ .tstep ∧ ∀ k, i ≠ .totp k) → t.time = s.time ∧ t.counter = s.counter ∧ t.remain = s.remain) ∧
    ((i = .tstep ∨ i = .trunc ∨ i = .modc) → t.digest = s.digest) ∧
    ((i = .tstep ∨ i = .modc ∨ ∃ k, i = .hmac k) → t.trunc = s.trunc) ∧
    ((i = .tstep ∨ i = .trunc ∨ ∃ k, i = .hmac k) → t.code = s.code) ∧
    t.actions = s.actions ∧ t.reads = s.reads ∧ t.delay = s.delay ∧ t.latNext = s.latNext

/-- R42, R97: the frame of VALIDATE and DECODE, whatever their outcome: every register but OUT_LEN, KVALID, SEQ and STATUS's result
fields, and every byte outside OUT_BUF, is unchanged; with BAD_LENGTH so is every byte of OUT_BUF, OUT_LEN and KVALID. -/
def Obligations.TextCommandsKeepTheRest : Prop :=
  ∀ (i : Instr) (s t : State), i = .validate ∨ i = .decode → exec i s = .next t →
    (∀ a, a < 0x200 ∨ 0x300 ≤ a → t.byteAt a = s.byteAt a) ∧
    t.curCmd = s.curCmd ∧ t.ovr = s.ovr ∧ t.inLen = s.inLen ∧ t.digits = s.digits ∧ t.stepSize = s.stepSize ∧
    t.counter = s.counter ∧ t.time = s.time ∧ t.remain = s.remain ∧ t.trunc = s.trunc ∧ t.code = s.code ∧
    t.digest = s.digest ∧ t.actions = s.actions ∧ t.reads = s.reads ∧ t.delay = s.delay ∧ t.latNext = s.latNext ∧
    t.clkNext = s.clkNext ∧
    (256 < s.inLen.toNat → t.outLen = s.outLen ∧ t.kvalid = s.kvalid ∧ ∀ a, t.byteAt a = s.byteAt a)

/-! ### Relations between commands -/

/-- R122: with its key there and 1 to 9 digits, CODE leaves the state that HMAC, then TRUNC, then MODC leave; with a bad digit
count CODE changes no result while the sequence has written DIGEST and TRUNC by then. -/
def Obligations.CodeEqualsHmacThenTruncThenModc : Prop :=
  ∀ (k : KeySource) (s s1 s2 s3 t : State), s.keyReady k →
    exec (.hmac k) s = .next s1 → exec .trunc s1 = .next s2 → exec .modc s2 = .next s3 → exec (.code k) s = .next t →
    (1 ≤ s.digits.toNat ∧ s.digits.toNat ≤ 9 → t = s3) ∧
    (¬ (1 ≤ s.digits.toNat ∧ s.digits.toNat ≤ 9) →
      t.ecode = .badDigits ∧ s3.ecode = .badDigits ∧ t.digest = s.digest ∧ t.trunc = s.trunc ∧
      s3.digest = s1.digest ∧ s3.trunc = s2.trunc)

/-- R126: two TOTP commands that succeed with the same key, STEP_SIZE and DIGITS and clock samples in the same step give the same
COUNTER, DIGEST, TRUNC and CODE, and their REMAIN differ by the difference of the samples. -/
def Obligations.TotpIsRepeatableWithinAStep : Prop :=
  ∀ (k1 k2 : KeySource) (s1 s2 t1 t2 : State) (c1 c2 : DWord),
    s1.keyLen k1 = s2.keyLen k2 → (∀ j < s1.keyLen k1, s1.keyByte k1 j = s2.keyByte k2 j) →
    s1.stepSize = s2.stepSize → s1.digits = s2.digits → s1.clockSample = .secs c1 → s2.clockSample = .secs c2 →
    c1.toNat / s1.stepSize.toNat = c2.toNat / s1.stepSize.toNat →
    exec (.totp k1) s1 = .next t1 → exec (.totp k2) s2 = .next t2 → t1.ecode = .ok → t2.ecode = .ok →
    t1.counter = t2.counter ∧ t1.digest = t2.digest ∧ t1.trunc = t2.trunc ∧ t1.code = t2.code ∧
    t1.remain.toNat + c1.toNat = t2.remain.toNat + c2.toNat

/-- R73, R144: a `key=out` HMAC or CODE depends on the decoded key, COUNTER and (for CODE) DIGITS only: two states that agree on
these end with the same result code and, on success, the same results, whatever IN_BUF, IN_LEN and every other register hold. -/
def Obligations.KeyOutCommandsReadNothingElse : Prop :=
  ∀ s1 s2 t1 t2 u1 u2 : State,
    s1.kvalid = s2.kvalid → s1.outLen = s2.outLen → (∀ j < s1.outLen.toNat, s1.outByte j = s2.outByte j) →
    s1.counter = s2.counter →
    exec (.hmac .outBuf) s1 = .next t1 → exec (.hmac .outBuf) s2 = .next t2 →
    exec (.code .outBuf) s1 = .next u1 → exec (.code .outBuf) s2 = .next u2 →
    t1.ecode = t2.ecode ∧ (t1.ecode = .ok → t1.digest = t2.digest) ∧
    (s1.digits = s2.digits → u1.ecode = u2.ecode ∧
      (u1.ecode = .ok → u1.digest = u2.digest ∧ u1.trunc = u2.trunc ∧ u1.code = u2.code))

/-- R87, R96: DECODE does not see case: two texts of one length whose bytes upper-case alike give the same result code, OUT_LEN
and output bytes. -/
def Obligations.DecodingIgnoresCase : Prop :=
  ∀ s1 s2 t1 t2 : State, s1.inLen = s2.inLen →
    (∀ j < s1.inLen.toNat, s1.inByte j = s2.inByte j ∨
      (0x61 ≤ (s1.inByte j).toNat ∧ (s1.inByte j).toNat ≤ 0x7A ∧ s2.inByte j = s1.inByte j - 0x20#8)) →
    exec .decode s1 = .next t1 → exec .decode s2 = .next t2 →
    t1.ecode = t2.ecode ∧ (t1.ecode = .ok → t1.outLen = t2.outLen ∧ ∀ j < t1.outLen.toNat, t1.outByte j = t2.outByte j)

/-- R95: on every text that passes the alphabet check, the running register emits the bytes of the bit stream. -/
def Obligations.RunningRegisterGivesTheBitStream : Prop :=
  ∀ u : List Byte, inAlphabet u = true → runningRegister 8 0#8 u = decodedBytes u

/-- R96: DECODE of the unpadded RFC 4648 encoding of a byte string gives the string back, for every string whose encoding fits
IN_BUF. (`rfcText` is the encoder of RFC 4648, which the spec names and does not write out: log entry 26.) -/
def Obligations.DecodeInvertsRfcEncoding : Prop :=
  ∀ (s : State) (x : List Byte), s.inLen.toNat ≤ 256 → s.inBytes s.inLen.toNat = rfcText x →
    ∃ t, exec .decode s = .next t ∧ t.ecode = .ok ∧ t.outLen.toNat = x.length ∧ t.outBytes x.length = x

/-! ### The time step -/

/-- R102: after a successful TSTEP or TOTP at clock reading `t`, REMAIN lies in [1, s], is `s` exactly when `t` is a multiple of
`s`, and for the readings `t` and `t + 1` of one step is one less at `t + 1`. -/
def Obligations.RemainCountsDownWithinAStep : Prop :=
  ∀ (i : Instr) (s u : State) (t : DWord), readsClock i = true → s.clockSample = .secs t → exec i s = .next u →
    u.ecode = .ok →
    1 ≤ u.remain.toNat ∧ u.remain.toNat ≤ s.stepSize.toNat ∧
    (u.remain.toNat = s.stepSize.toNat ↔ t.toNat % s.stepSize.toNat = 0) ∧
    ∀ (s' u' : State) (t' : DWord), s'.stepSize = s.stepSize → s'.clockSample = .secs t' → t'.toNat = t.toNat + 1 →
      t'.toNat % s.stepSize.toNat ≠ 0 → exec i s' = .next u' → u'.ecode = .ok →
      u'.remain.toNat + 1 = u.remain.toNat

/-- R103: for one step size COUNTER does not decrease as the clock reading grows, and between two readings it changes exactly
when a multiple of the step size lies above the first and not above the second. -/
def Obligations.CounterChangesOnlyAtStepBoundaries : Prop :=
  ∀ (i : Instr) (s1 s2 u1 u2 : State) (t1 t2 : DWord), readsClock i = true → s1.stepSize = s2.stepSize →
    s1.clockSample = .secs t1 → s2.clockSample = .secs t2 → exec i s1 = .next u1 → exec i s2 = .next u2 →
    u1.ecode = .ok → u2.ecode = .ok → t1.toNat ≤ t2.toNat →
    u1.counter.toNat ≤ u2.counter.toNat ∧
    (u1.counter ≠ u2.counter ↔ ∃ m, t1.toNat < m * s1.stepSize.toNat ∧ m * s1.stepSize.toNat ≤ t2.toNat)

/-- R33: reset is the only way REMAIN reads 0: no other step makes it 0. -/
def Obligations.RemainBecomesZeroOnlyByReset : Prop :=
  ∀ s t : State, step s = .next t → t.remain = 0#8 → s.remain = 0#8 ∨ ∃ rest, s.actions = .rst :: rest

/-- R104, R120: a TSTEP or TOTP that passes its checks takes exactly one clock sample, and TIME is that sample unless it is before
the epoch; a command that ends in an error, and every other command, takes none. (A sample uses up the premise on it and one
free value, log entry 5.) -/
def Obligations.TimedCommandsTakeExactlyOneSample : Prop :=
  ∀ (i : Instr) (s t : State), exec i s = .next t →
    (readsClock i = true ∧ (t.ecode = .ok ∨ t.ecode = .clockBeforeEpoch) →
      t.clkNext = none ∧ t.draws = s.draws + 1 ∧ (t.ecode = .ok → s.clockSample = .secs t.time) ∧
      (t.ecode = .clockBeforeEpoch → s.clockSample = .beforeEpoch)) ∧
    (¬ (readsClock i = true ∧ (t.ecode = .ok ∨ t.ecode = .clockBeforeEpoch)) → t.clkNext = s.clkNext)

/-! ### SHA-1 and HMAC -/

/-- R132: the padded message is the message, 0x80, fewer than 64 zero bytes and the 64-bit big-endian length in bits, and is a
whole number of 64-byte blocks. -/
def Obligations.PaddedMessageIsWholeBlocks : Prop :=
  ∀ m : List Byte, (padMessage m).length % 64 = 0 ∧
    ∃ z < 64, padMessage m =
      m ++ [0x80#8] ++ List.replicate z 0#8 ++ (List.range 8).map fun j => BitVec.ofNat 8 (8 * m.length / 256 ^ (7 - j))

/-- R142: the prepared key is 64 bytes: the key, or the 20 bytes of its SHA-1 when it is longer than 64 bytes, and zero bytes. -/
def Obligations.PreparedKeyIsOneBlock : Prop :=
  ∀ k : List Byte, (prepareKey k).length = 64 ∧
    (k.length ≤ 64 → prepareKey k = k ++ List.replicate (64 - k.length) 0#8) ∧
    (64 < k.length → prepareKey k = sha1 k ++ List.replicate 44 0#8)

/-- R136: the message schedule has 80 words, the block's 16 and then the recurrence. -/
def Obligations.ScheduleFollowsItsRecurrence : Prop :=
  ∀ block : List Word, block.length = 16 → (schedule block).length = 80 ∧
    (∀ t < 16, (schedule block)[t]? = block[t]?) ∧
    ∀ t, 16 ≤ t → t < 80 → ∀ a b c d, (schedule block)[t - 3]? = some a → (schedule block)[t - 8]? = some b →
      (schedule block)[t - 14]? = some c → (schedule block)[t - 16]? = some d →
      (schedule block)[t]? = some ((a ^^^ b ^^^ c ^^^ d).rotateLeft 1)

/-- R139: the check values of SHA-1 for the empty string and for "abc". -/
def Obligations.Sha1CheckValues : Prop :=
  sha1 [] = [0xda#8, 0x39#8, 0xa3#8, 0xee#8, 0x5e#8, 0x6b#8, 0x4b#8, 0x0d#8, 0x32#8, 0x55#8,
             0xbf#8, 0xef#8, 0x95#8, 0x60#8, 0x18#8, 0x90#8, 0xaf#8, 0xd8#8, 0x07#8, 0x09#8] ∧
  sha1 [0x61#8, 0x62#8, 0x63#8] =
            [0xa9#8, 0x99#8, 0x3e#8, 0x36#8, 0x47#8, 0x06#8, 0x81#8, 0x6a#8, 0xba#8, 0x3e#8,
             0x25#8, 0x71#8, 0x78#8, 0x50#8, 0xc2#8, 0x6c#8, 0x9c#8, 0xd0#8, 0xd8#8, 0x9d#8]
end

