-- ==== Sys2Proof/Laws/State.lean ====
section
/-! SUPPORT. One lemma per field per state update: what the update makes of the field, true by rfl, so that no later proof
unfolds a record update. An update's frame is the lemmas of the fields it keeps. -/

namespace Sys2Proof.Machine

@[simp] theorem complete_eq (s : State) : s.complete = s.finish .idle .ok := rfl
@[simp] theorem raiseError_eq (s : State) (e : ECode) : s.raiseError e = s.finish .idle e := rfl
@[simp] theorem raiseFault_eq (s : State) : s.raiseFault = s.finish .faulted .clockBeforeEpoch := rfl

/-! ### finish -/

@[simp] theorem finish_seq (s : State) (q : SeqState) (e : ECode) : (s.finish q e).seq = q := rfl
@[simp] theorem finish_curCmd (s : State) (q : SeqState) (e : ECode) : (s.finish q e).curCmd = s.curCmd := rfl
@[simp] theorem finish_done (s : State) (q : SeqState) (e : ECode) : (s.finish q e).done = true := rfl
@[simp] theorem finish_err (s : State) (q : SeqState) (e : ECode) : (s.finish q e).err = decide (e ≠ .ok) := rfl
@[simp] theorem finish_ecode (s : State) (q : SeqState) (e : ECode) : (s.finish q e).ecode = e := rfl
@[simp] theorem finish_ovr (s : State) (q : SeqState) (e : ECode) : (s.finish q e).ovr = s.ovr := rfl
@[simp] theorem finish_kvalid (s : State) (q : SeqState) (e : ECode) : (s.finish q e).kvalid = s.kvalid := rfl
@[simp] theorem finish_inLen (s : State) (q : SeqState) (e : ECode) : (s.finish q e).inLen = s.inLen := rfl
@[simp] theorem finish_outLen (s : State) (q : SeqState) (e : ECode) : (s.finish q e).outLen = s.outLen := rfl
@[simp] theorem finish_digits (s : State) (q : SeqState) (e : ECode) : (s.finish q e).digits = s.digits := rfl
@[simp] theorem finish_stepSize (s : State) (q : SeqState) (e : ECode) : (s.finish q e).stepSize = s.stepSize := rfl
@[simp] theorem finish_counter (s : State) (q : SeqState) (e : ECode) : (s.finish q e).counter = s.counter := rfl
@[simp] theorem finish_time (s : State) (q : SeqState) (e : ECode) : (s.finish q e).time = s.time := rfl
@[simp] theorem finish_remain (s : State) (q : SeqState) (e : ECode) : (s.finish q e).remain = s.remain := rfl
@[simp] theorem finish_trunc (s : State) (q : SeqState) (e : ECode) : (s.finish q e).trunc = s.trunc := rfl
@[simp] theorem finish_code (s : State) (q : SeqState) (e : ECode) : (s.finish q e).code = s.code := rfl
@[simp] theorem finish_digest (s : State) (q : SeqState) (e : ECode) : (s.finish q e).digest = s.digest := rfl
@[simp] theorem finish_mem (s : State) (q : SeqState) (e : ECode) : (s.finish q e).mem = s.mem := rfl
@[simp] theorem finish_inFill (s : State) (q : SeqState) (e : ECode) : (s.finish q e).inFill = s.inFill := rfl
@[simp] theorem finish_outFill (s : State) (q : SeqState) (e : ECode) : (s.finish q e).outFill = s.outFill := rfl
@[simp] theorem finish_draws (s : State) (q : SeqState) (e : ECode) : (s.finish q e).draws = s.draws := rfl
@[simp] theorem finish_actions (s : State) (q : SeqState) (e : ECode) : (s.finish q e).actions = s.actions := rfl
@[simp] theorem finish_reads (s : State) (q : SeqState) (e : ECode) : (s.finish q e).reads = s.reads := rfl
@[simp] theorem finish_delay (s : State) (q : SeqState) (e : ECode) : (s.finish q e).delay = s.delay := rfl
@[simp] theorem finish_latNext (s : State) (q : SeqState) (e : ECode) : (s.finish q e).latNext = s.latNext := rfl
@[simp] theorem finish_clkNext (s : State) (q : SeqState) (e : ECode) : (s.finish q e).clkNext = s.clkNext := rfl
@[simp] theorem finish_byteAt (s : State) (q : SeqState) (e : ECode) (x : Nat) : (s.finish q e).byteAt x = s.byteAt x := rfl

/-! ### setOvr -/

@[simp] theorem setOvr_seq (s : State) : s.setOvr.seq = s.seq := rfl
@[simp] theorem setOvr_curCmd (s : State) : s.setOvr.curCmd = s.curCmd := rfl
@[simp] theorem setOvr_done (s : State) : s.setOvr.done = s.done := rfl
@[simp] theorem setOvr_err (s : State) : s.setOvr.err = s.err := rfl
@[simp] theorem setOvr_ecode (s : State) : s.setOvr.ecode = s.ecode := rfl
@[simp] theorem setOvr_ovr (s : State) : s.setOvr.ovr = true := rfl
@[simp] theorem setOvr_kvalid (s : State) : s.setOvr.kvalid = s.kvalid := rfl
@[simp] theorem setOvr_inLen (s : State) : s.setOvr.inLen = s.inLen := rfl
@[simp] theorem setOvr_outLen (s : State) : s.setOvr.outLen = s.outLen := rfl
@[simp] theorem setOvr_digits (s : State) : s.setOvr.digits = s.digits := rfl
@[simp] theorem setOvr_stepSize (s : State) : s.setOvr.stepSize = s.stepSize := rfl
@[simp] theorem setOvr_counter (s : State) : s.setOvr.counter = s.counter := rfl
@[simp] theorem setOvr_time (s : State) : s.setOvr.time = s.time := rfl
@[simp] theorem setOvr_remain (s : State) : s.setOvr.remain = s.remain := rfl
@[simp] theorem setOvr_trunc (s : State) : s.setOvr.trunc = s.trunc := rfl
@[simp] theorem setOvr_code (s : State) : s.setOvr.code = s.code := rfl
@[simp] theorem setOvr_digest (s : State) : s.setOvr.digest = s.digest := rfl
@[simp] theorem setOvr_mem (s : State) : s.setOvr.mem = s.mem := rfl
@[simp] theorem setOvr_inFill (s : State) : s.setOvr.inFill = s.inFill := rfl
@[simp] theorem setOvr_outFill (s : State) : s.setOvr.outFill = s.outFill := rfl
@[simp] theorem setOvr_draws (s : State) : s.setOvr.draws = s.draws := rfl
@[simp] theorem setOvr_actions (s : State) : s.setOvr.actions = s.actions := rfl
@[simp] theorem setOvr_reads (s : State) : s.setOvr.reads = s.reads := rfl
@[simp] theorem setOvr_delay (s : State) : s.setOvr.delay = s.delay := rfl
@[simp] theorem setOvr_latNext (s : State) : s.setOvr.latNext = s.latNext := rfl
@[simp] theorem setOvr_clkNext (s : State) : s.setOvr.clkNext = s.clkNext := rfl
@[simp] theorem setOvr_byteAt (s : State) (x : Nat) : s.setOvr.byteAt x = s.byteAt x := rfl

/-! ### clearOvr -/

@[simp] theorem clearOvr_seq (s : State) : s.clearOvr.seq = s.seq := rfl
@[simp] theorem clearOvr_curCmd (s : State) : s.clearOvr.curCmd = s.curCmd := rfl
@[simp] theorem clearOvr_done (s : State) : s.clearOvr.done = s.done := rfl
@[simp] theorem clearOvr_err (s : State) : s.clearOvr.err = s.err := rfl
@[simp] theorem clearOvr_ecode (s : State) : s.clearOvr.ecode = s.ecode := rfl
@[simp] theorem clearOvr_ovr (s : State) : s.clearOvr.ovr = false := rfl
@[simp] theorem clearOvr_kvalid (s : State) : s.clearOvr.kvalid = s.kvalid := rfl
@[simp] theorem clearOvr_inLen (s : State) : s.clearOvr.inLen = s.inLen := rfl
@[simp] theorem clearOvr_outLen (s : State) : s.clearOvr.outLen = s.outLen := rfl
@[simp] theorem clearOvr_digits (s : State) : s.clearOvr.digits = s.digits := rfl
@[simp] theorem clearOvr_stepSize (s : State) : s.clearOvr.stepSize = s.stepSize := rfl
@[simp] theorem clearOvr_counter (s : State) : s.clearOvr.counter = s.counter := rfl
@[simp] theorem clearOvr_time (s : State) : s.clearOvr.time = s.time := rfl
@[simp] theorem clearOvr_remain (s : State) : s.clearOvr.remain = s.remain := rfl
@[simp] theorem clearOvr_trunc (s : State) : s.clearOvr.trunc = s.trunc := rfl
@[simp] theorem clearOvr_code (s : State) : s.clearOvr.code = s.code := rfl
@[simp] theorem clearOvr_digest (s : State) : s.clearOvr.digest = s.digest := rfl
@[simp] theorem clearOvr_mem (s : State) : s.clearOvr.mem = s.mem := rfl
@[simp] theorem clearOvr_inFill (s : State) : s.clearOvr.inFill = s.inFill := rfl
@[simp] theorem clearOvr_outFill (s : State) : s.clearOvr.outFill = s.outFill := rfl
@[simp] theorem clearOvr_draws (s : State) : s.clearOvr.draws = s.draws := rfl
@[simp] theorem clearOvr_actions (s : State) : s.clearOvr.actions = s.actions := rfl
@[simp] theorem clearOvr_reads (s : State) : s.clearOvr.reads = s.reads := rfl
@[simp] theorem clearOvr_delay (s : State) : s.clearOvr.delay = s.delay := rfl
@[simp] theorem clearOvr_latNext (s : State) : s.clearOvr.latNext = s.latNext := rfl
@[simp] theorem clearOvr_clkNext (s : State) : s.clearOvr.clkNext = s.clkNext := rfl
@[simp] theorem clearOvr_byteAt (s : State) (x : Nat) : s.clearOvr.byteAt x = s.byteAt x := rfl

/-! ### accept -/

@[simp] theorem accept_seq (s : State) (w : Word) : (s.accept w).seq = .busy := rfl
@[simp] theorem accept_curCmd (s : State) (w : Word) : (s.accept w).curCmd = w := rfl
@[simp] theorem accept_done (s : State) (w : Word) : (s.accept w).done = false := rfl
@[simp] theorem accept_err (s : State) (w : Word) : (s.accept w).err = false := rfl
@[simp] theorem accept_ecode (s : State) (w : Word) : (s.accept w).ecode = .ok := rfl
@[simp] theorem accept_ovr (s : State) (w : Word) : (s.accept w).ovr = s.ovr := rfl
@[simp] theorem accept_kvalid (s : State) (w : Word) : (s.accept w).kvalid = s.kvalid := rfl
@[simp] theorem accept_inLen (s : State) (w : Word) : (s.accept w).inLen = s.inLen := rfl
@[simp] theorem accept_outLen (s : State) (w : Word) : (s.accept w).outLen = s.outLen := rfl
@[simp] theorem accept_digits (s : State) (w : Word) : (s.accept w).digits = s.digits := rfl
@[simp] theorem accept_stepSize (s : State) (w : Word) : (s.accept w).stepSize = s.stepSize := rfl
@[simp] theorem accept_counter (s : State) (w : Word) : (s.accept w).counter = s.counter := rfl
@[simp] theorem accept_time (s : State) (w : Word) : (s.accept w).time = s.time := rfl
@[simp] theorem accept_remain (s : State) (w : Word) : (s.accept w).remain = s.remain := rfl
@[simp] theorem accept_trunc (s : State) (w : Word) : (s.accept w).trunc = s.trunc := rfl
@[simp] theorem accept_code (s : State) (w : Word) : (s.accept w).code = s.code := rfl
@[simp] theorem accept_digest (s : State) (w : Word) : (s.accept w).digest = s.digest := rfl
@[simp] theorem accept_mem (s : State) (w : Word) : (s.accept w).mem = s.mem := rfl
@[simp] theorem accept_inFill (s : State) (w : Word) : (s.accept w).inFill = s.inFill := rfl
@[simp] theorem accept_outFill (s : State) (w : Word) : (s.accept w).outFill = s.outFill := rfl
@[simp] theorem accept_draws (s : State) (w : Word) : (s.accept w).draws = s.draws + 1 := rfl
@[simp] theorem accept_actions (s : State) (w : Word) : (s.accept w).actions = s.actions := rfl
@[simp] theorem accept_reads (s : State) (w : Word) : (s.accept w).reads = s.reads := rfl
@[simp] theorem accept_delay (s : State) (w : Word) : (s.accept w).delay = s.latNext.getD (Config.freeLatency s.draws) := rfl
@[simp] theorem accept_latNext (s : State) (w : Word) : (s.accept w).latNext = none := rfl
@[simp] theorem accept_clkNext (s : State) (w : Word) : (s.accept w).clkNext = s.clkNext := rfl
@[simp] theorem accept_byteAt (s : State) (w : Word) (x : Nat) : (s.accept w).byteAt x = s.byteAt x := rfl

/-! ### applyReset -/

@[simp] theorem applyReset_seq (s : State) : s.applyReset.seq = .idle := rfl
@[simp] theorem applyReset_curCmd (s : State) : s.applyReset.curCmd = 0#32 := rfl
@[simp] theorem applyReset_done (s : State) : s.applyReset.done = false := rfl
@[simp] theorem applyReset_err (s : State) : s.applyReset.err = false := rfl
@[simp] theorem applyReset_ecode (s : State) : s.applyReset.ecode = .ok := rfl
@[simp] theorem applyReset_ovr (s : State) : s.applyReset.ovr = false := rfl
@[simp] theorem applyReset_kvalid (s : State) : s.applyReset.kvalid = false := rfl
@[simp] theorem applyReset_inLen (s : State) : s.applyReset.inLen = 0#16 := rfl
@[simp] theorem applyReset_outLen (s : State) : s.applyReset.outLen = 0#16 := rfl
@[simp] theorem applyReset_digits (s : State) : s.applyReset.digits = 6#8 := rfl
@[simp] theorem applyReset_stepSize (s : State) : s.applyReset.stepSize = 30#64 := rfl
@[simp] theorem applyReset_counter (s : State) : s.applyReset.counter = 0#64 := rfl
@[simp] theorem applyReset_time (s : State) : s.applyReset.time = 0#64 := rfl
@[simp] theorem applyReset_remain (s : State) : s.applyReset.remain = 0#8 := rfl
@[simp] theorem applyReset_trunc (s : State) : s.applyReset.trunc = 0#31 := rfl
@[simp] theorem applyReset_code (s : State) : s.applyReset.code = 0#32 := rfl
@[simp] theorem applyReset_digest (s : State) : s.applyReset.digest = ⟨0#32, 0#32, 0#32, 0#32, 0#32⟩ := rfl
@[simp] theorem applyReset_mem (s : State) : s.applyReset.mem = [] := rfl
@[simp] theorem applyReset_inFill (s : State) : s.applyReset.inFill = s.draws := rfl
@[simp] theorem applyReset_outFill (s : State) : s.applyReset.outFill = s.draws := rfl
@[simp] theorem applyReset_draws (s : State) : s.applyReset.draws = s.draws + 1 := rfl
@[simp] theorem applyReset_actions (s : State) : s.applyReset.actions = s.actions := rfl
@[simp] theorem applyReset_reads (s : State) : s.applyReset.reads = s.reads := rfl
@[simp] theorem applyReset_delay (s : State) : s.applyReset.delay = 0 := rfl
@[simp] theorem applyReset_latNext (s : State) : s.applyReset.latNext = s.latNext := rfl
@[simp] theorem applyReset_clkNext (s : State) : s.applyReset.clkNext = s.clkNext := rfl

/-! ### sampled -/

@[simp] theorem sampled_seq (s : State) : s.sampled.seq = s.seq := rfl
@[simp] theorem sampled_curCmd (s : State) : s.sampled.curCmd = s.curCmd := rfl
@[simp] theorem sampled_done (s : State) : s.sampled.done = s.done := rfl
@[simp] theorem sampled_err (s : State) : s.sampled.err = s.err := rfl
@[simp] theorem sampled_ecode (s : State) : s.sampled.ecode = s.ecode := rfl
@[simp] theorem sampled_ovr (s : State) : s.sampled.ovr = s.ovr := rfl
@[simp] theorem sampled_kvalid (s : State) : s.sampled.kvalid = s.kvalid := rfl
@[simp] theorem sampled_inLen (s : State) : s.sampled.inLen = s.inLen := rfl
@[simp] theorem sampled_outLen (s : State) : s.sampled.outLen = s.outLen := rfl
@[simp] theorem sampled_digits (s : State) : s.sampled.digits = s.digits := rfl
@[simp] theorem sampled_stepSize (s : State) : s.sampled.stepSize = s.stepSize := rfl
@[simp] theorem sampled_counter (s : State) : s.sampled.counter = s.counter := rfl
@[simp] theorem sampled_time (s : State) : s.sampled.time = s.time := rfl
@[simp] theorem sampled_remain (s : State) : s.sampled.remain = s.remain := rfl
@[simp] theorem sampled_trunc (s : State) : s.sampled.trunc = s.trunc := rfl
@[simp] theorem sampled_code (s : State) : s.sampled.code = s.code := rfl
@[simp] theorem sampled_digest (s : State) : s.sampled.digest = s.digest := rfl
@[simp] theorem sampled_mem (s : State) : s.sampled.mem = s.mem := rfl
@[simp] theorem sampled_inFill (s : State) : s.sampled.inFill = s.inFill := rfl
@[simp] theorem sampled_outFill (s : State) : s.sampled.outFill = s.outFill := rfl
@[simp] theorem sampled_draws (s : State) : s.sampled.draws = s.draws + 1 := rfl
@[simp] theorem sampled_actions (s : State) : s.sampled.actions = s.actions := rfl
@[simp] theorem sampled_reads (s : State) : s.sampled.reads = s.reads := rfl
@[simp] theorem sampled_delay (s : State) : s.sampled.delay = s.delay := rfl
@[simp] theorem sampled_latNext (s : State) : s.sampled.latNext = s.latNext := rfl
@[simp] theorem sampled_clkNext (s : State) : s.sampled.clkNext = none := rfl
@[simp] theorem sampled_byteAt (s : State) (x : Nat) : s.sampled.byteAt x = s.byteAt x := rfl

/-! ### deliverOutput -/

@[simp] theorem deliverOutput_seq (s : State) (l : List Byte) (kv : Bool) : (s.deliverOutput l kv).seq = s.seq := rfl
@[simp] theorem deliverOutput_curCmd (s : State) (l : List Byte) (kv : Bool) : (s.deliverOutput l kv).curCmd = s.curCmd := rfl
@[simp] theorem deliverOutput_done (s : State) (l : List Byte) (kv : Bool) : (s.deliverOutput l kv).done = s.done := rfl
@[simp] theorem deliverOutput_err (s : State) (l : List Byte) (kv : Bool) : (s.deliverOutput l kv).err = s.err := rfl
@[simp] theorem deliverOutput_ecode (s : State) (l : List Byte) (kv : Bool) : (s.deliverOutput l kv).ecode = s.ecode := rfl
@[simp] theorem deliverOutput_ovr (s : State) (l : List Byte) (kv : Bool) : (s.deliverOutput l kv).ovr = s.ovr := rfl
@[simp] theorem deliverOutput_kvalid (s : State) (l : List Byte) (kv : Bool) : (s.deliverOutput l kv).kvalid = kv := rfl
@[simp] theorem deliverOutput_inLen (s : State) (l : List Byte) (kv : Bool) : (s.deliverOutput l kv).inLen = s.inLen := rfl
@[simp] theorem deliverOutput_outLen (s : State) (l : List Byte) (kv : Bool) : (s.deliverOutput l kv).outLen = BitVec.ofNat 16 l.length := rfl
@[simp] theorem deliverOutput_digits (s : State) (l : List Byte) (kv : Bool) : (s.deliverOutput l kv).digits = s.digits := rfl
@[simp] theorem deliverOutput_stepSize (s : State) (l : List Byte) (kv : Bool) : (s.deliverOutput l kv).stepSize = s.stepSize := rfl
@[simp] theorem deliverOutput_counter (s : State) (l : List Byte) (kv : Bool) : (s.deliverOutput l kv).counter = s.counter := rfl
@[simp] theorem deliverOutput_time (s : State) (l : List Byte) (kv : Bool) : (s.deliverOutput l kv).time = s.time := rfl
@[simp] theorem deliverOutput_remain (s : State) (l : List Byte) (kv : Bool) : (s.deliverOutput l kv).remain = s.remain := rfl
@[simp] theorem deliverOutput_trunc (s : State) (l : List Byte) (kv : Bool) : (s.deliverOutput l kv).trunc = s.trunc := rfl
@[simp] theorem deliverOutput_code (s : State) (l : List Byte) (kv : Bool) : (s.deliverOutput l kv).code = s.code := rfl
@[simp] theorem deliverOutput_digest (s : State) (l : List Byte) (kv : Bool) : (s.deliverOutput l kv).digest = s.digest := rfl
@[simp] theorem deliverOutput_mem (s : State) (l : List Byte) (kv : Bool) : (s.deliverOutput l kv).mem = (s.mem.forget 0x200 0x300).putBytes 0x200 l := rfl
@[simp] theorem deliverOutput_inFill (s : State) (l : List Byte) (kv : Bool) : (s.deliverOutput l kv).inFill = s.inFill := rfl
@[simp] theorem deliverOutput_outFill (s : State) (l : List Byte) (kv : Bool) : (s.deliverOutput l kv).outFill = s.draws := rfl
@[simp] theorem deliverOutput_draws (s : State) (l : List Byte) (kv : Bool) : (s.deliverOutput l kv).draws = s.draws + 1 := rfl
@[simp] theorem deliverOutput_actions (s : State) (l : List Byte) (kv : Bool) : (s.deliverOutput l kv).actions = s.actions := rfl
@[simp] theorem deliverOutput_reads (s : State) (l : List Byte) (kv : Bool) : (s.deliverOutput l kv).reads = s.reads := rfl
@[simp] theorem deliverOutput_delay (s : State) (l : List Byte) (kv : Bool) : (s.deliverOutput l kv).delay = s.delay := rfl
@[simp] theorem deliverOutput_latNext (s : State) (l : List Byte) (kv : Bool) : (s.deliverOutput l kv).latNext = s.latNext := rfl
@[simp] theorem deliverOutput_clkNext (s : State) (l : List Byte) (kv : Bool) : (s.deliverOutput l kv).clkNext = s.clkNext := rfl

/-! ### withholdOutput -/

@[simp] theorem withholdOutput_seq (s : State) : s.withholdOutput.seq = s.seq := rfl
@[simp] theorem withholdOutput_curCmd (s : State) : s.withholdOutput.curCmd = s.curCmd := rfl
@[simp] theorem withholdOutput_done (s : State) : s.withholdOutput.done = s.done := rfl
@[simp] theorem withholdOutput_err (s : State) : s.withholdOutput.err = s.err := rfl
@[simp] theorem withholdOutput_ecode (s : State) : s.withholdOutput.ecode = s.ecode := rfl
@[simp] theorem withholdOutput_ovr (s : State) : s.withholdOutput.ovr = s.ovr := rfl
@[simp] theorem withholdOutput_kvalid (s : State) : s.withholdOutput.kvalid = false := rfl
@[simp] theorem withholdOutput_inLen (s : State) : s.withholdOutput.inLen = s.inLen := rfl
@[simp] theorem withholdOutput_outLen (s : State) : s.withholdOutput.outLen = 0#16 := rfl
@[simp] theorem withholdOutput_digits (s : State) : s.withholdOutput.digits = s.digits := rfl
@[simp] theorem withholdOutput_stepSize (s : State) : s.withholdOutput.stepSize = s.stepSize := rfl
@[simp] theorem withholdOutput_counter (s : State) : s.withholdOutput.counter = s.counter := rfl
@[simp] theorem withholdOutput_time (s : State) : s.withholdOutput.time = s.time := rfl
@[simp] theorem withholdOutput_remain (s : State) : s.withholdOutput.remain = s.remain := rfl
@[simp] theorem withholdOutput_trunc (s : State) : s.withholdOutput.trunc = s.trunc := rfl
@[simp] theorem withholdOutput_code (s : State) : s.withholdOutput.code = s.code := rfl
@[simp] theorem withholdOutput_digest (s : State) : s.withholdOutput.digest = s.digest := rfl
@[simp] theorem withholdOutput_mem (s : State) : s.withholdOutput.mem = s.mem.forget 0x200 0x300 := rfl
@[simp] theorem withholdOutput_inFill (s : State) : s.withholdOutput.inFill = s.inFill := rfl
@[simp] theorem withholdOutput_outFill (s : State) : s.withholdOutput.outFill = s.draws := rfl
@[simp] theorem withholdOutput_draws (s : State) : s.withholdOutput.draws = s.draws + 1 := rfl
@[simp] theorem withholdOutput_actions (s : State) : s.withholdOutput.actions = s.actions := rfl
@[simp] theorem withholdOutput_reads (s : State) : s.withholdOutput.reads = s.reads := rfl
@[simp] theorem withholdOutput_delay (s : State) : s.withholdOutput.delay = s.delay := rfl
@[simp] theorem withholdOutput_latNext (s : State) : s.withholdOutput.latNext = s.latNext := rfl
@[simp] theorem withholdOutput_clkNext (s : State) : s.withholdOutput.clkNext = s.clkNext := rfl

/-! ### writeTimeStep -/

@[simp] theorem writeTimeStep_seq (s : State) (t : DWord) : (s.writeTimeStep t).seq = s.seq := rfl
@[simp] theorem writeTimeStep_curCmd (s : State) (t : DWord) : (s.writeTimeStep t).curCmd = s.curCmd := rfl
@[simp] theorem writeTimeStep_done (s : State) (t : DWord) : (s.writeTimeStep t).done = s.done := rfl
@[simp] theorem writeTimeStep_err (s : State) (t : DWord) : (s.writeTimeStep t).err = s.err := rfl
@[simp] theorem writeTimeStep_ecode (s : State) (t : DWord) : (s.writeTimeStep t).ecode = s.ecode := rfl
@[simp] theorem writeTimeStep_ovr (s : State) (t : DWord) : (s.writeTimeStep t).ovr = s.ovr := rfl
@[simp] theorem writeTimeStep_kvalid (s : State) (t : DWord) : (s.writeTimeStep t).kvalid = s.kvalid := rfl
@[simp] theorem writeTimeStep_inLen (s : State) (t : DWord) : (s.writeTimeStep t).inLen = s.inLen := rfl
@[simp] theorem writeTimeStep_outLen (s : State) (t : DWord) : (s.writeTimeStep t).outLen = s.outLen := rfl
@[simp] theorem writeTimeStep_digits (s : State) (t : DWord) : (s.writeTimeStep t).digits = s.digits := rfl
@[simp] theorem writeTimeStep_stepSize (s : State) (t : DWord) : (s.writeTimeStep t).stepSize = s.stepSize := rfl
@[simp] theorem writeTimeStep_counter (s : State) (t : DWord) : (s.writeTimeStep t).counter = stepIndex t s.stepSize := rfl
@[simp] theorem writeTimeStep_time (s : State) (t : DWord) : (s.writeTimeStep t).time = t := rfl
@[simp] theorem writeTimeStep_remain (s : State) (t : DWord) : (s.writeTimeStep t).remain = remaining t s.stepSize := rfl
@[simp] theorem writeTimeStep_trunc (s : State) (t : DWord) : (s.writeTimeStep t).trunc = s.trunc := rfl
@[simp] theorem writeTimeStep_code (s : State) (t : DWord) : (s.writeTimeStep t).code = s.code := rfl
@[simp] theorem writeTimeStep_digest (s : State) (t : DWord) : (s.writeTimeStep t).digest = s.digest := rfl
@[simp] theorem writeTimeStep_mem (s : State) (t : DWord) : (s.writeTimeStep t).mem = s.mem := rfl
@[simp] theorem writeTimeStep_inFill (s : State) (t : DWord) : (s.writeTimeStep t).inFill = s.inFill := rfl
@[simp] theorem writeTimeStep_outFill (s : State) (t : DWord) : (s.writeTimeStep t).outFill = s.outFill := rfl
@[simp] theorem writeTimeStep_draws (s : State) (t : DWord) : (s.writeTimeStep t).draws = s.draws := rfl
@[simp] theorem writeTimeStep_actions (s : State) (t : DWord) : (s.writeTimeStep t).actions = s.actions := rfl
@[simp] theorem writeTimeStep_reads (s : State) (t : DWord) : (s.writeTimeStep t).reads = s.reads := rfl
@[simp] theorem writeTimeStep_delay (s : State) (t : DWord) : (s.writeTimeStep t).delay = s.delay := rfl
@[simp] theorem writeTimeStep_latNext (s : State) (t : DWord) : (s.writeTimeStep t).latNext = s.latNext := rfl
@[simp] theorem writeTimeStep_clkNext (s : State) (t : DWord) : (s.writeTimeStep t).clkNext = s.clkNext := rfl
@[simp] theorem writeTimeStep_byteAt (s : State) (t : DWord) (x : Nat) : (s.writeTimeStep t).byteAt x = s.byteAt x := rfl

/-! ### deriveDigest -/

@[simp] theorem deriveDigest_seq (s : State) (k : KeySource) : (s.deriveDigest k).seq = s.seq := rfl
@[simp] theorem deriveDigest_curCmd (s : State) (k : KeySource) : (s.deriveDigest k).curCmd = s.curCmd := rfl
@[simp] theorem deriveDigest_done (s : State) (k : KeySource) : (s.deriveDigest k).done = s.done := rfl
@[simp] theorem deriveDigest_err (s : State) (k : KeySource) : (s.deriveDigest k).err = s.err := rfl
@[simp] theorem deriveDigest_ecode (s : State) (k : KeySource) : (s.deriveDigest k).ecode = s.ecode := rfl
@[simp] theorem deriveDigest_ovr (s : State) (k : KeySource) : (s.deriveDigest k).ovr = s.ovr := rfl
@[simp] theorem deriveDigest_kvalid (s : State) (k : KeySource) : (s.deriveDigest k).kvalid = s.kvalid := rfl
@[simp] theorem deriveDigest_inLen (s : State) (k : KeySource) : (s.deriveDigest k).inLen = s.inLen := rfl
@[simp] theorem deriveDigest_outLen (s : State) (k : KeySource) : (s.deriveDigest k).outLen = s.outLen := rfl
@[simp] theorem deriveDigest_digits (s : State) (k : KeySource) : (s.deriveDigest k).digits = s.digits := rfl
@[simp] theorem deriveDigest_stepSize (s : State) (k : KeySource) : (s.deriveDigest k).stepSize = s.stepSize := rfl
@[simp] theorem deriveDigest_counter (s : State) (k : KeySource) : (s.deriveDigest k).counter = s.counter := rfl
@[simp] theorem deriveDigest_time (s : State) (k : KeySource) : (s.deriveDigest k).time = s.time := rfl
@[simp] theorem deriveDigest_remain (s : State) (k : KeySource) : (s.deriveDigest k).remain = s.remain := rfl
@[simp] theorem deriveDigest_trunc (s : State) (k : KeySource) : (s.deriveDigest k).trunc = s.trunc := rfl
@[simp] theorem deriveDigest_code (s : State) (k : KeySource) : (s.deriveDigest k).code = s.code := rfl
@[simp] theorem deriveDigest_digest (s : State) (k : KeySource) : (s.deriveDigest k).digest = Digest.ofBytes (hmacSha1 (s.keyBytes k) (hmacMessage s.counter)) := rfl
@[simp] theorem deriveDigest_mem (s : State) (k : KeySource) : (s.deriveDigest k).mem = s.mem := rfl
@[simp] theorem deriveDigest_inFill (s : State) (k : KeySource) : (s.deriveDigest k).inFill = s.inFill := rfl
@[simp] theorem deriveDigest_outFill (s : State) (k : KeySource) : (s.deriveDigest k).outFill = s.outFill := rfl
@[simp] theorem deriveDigest_draws (s : State) (k : KeySource) : (s.deriveDigest k).draws = s.draws := rfl
@[simp] theorem deriveDigest_actions (s : State) (k : KeySource) : (s.deriveDigest k).actions = s.actions := rfl
@[simp] theorem deriveDigest_reads (s : State) (k : KeySource) : (s.deriveDigest k).reads = s.reads := rfl
@[simp] theorem deriveDigest_delay (s : State) (k : KeySource) : (s.deriveDigest k).delay = s.delay := rfl
@[simp] theorem deriveDigest_latNext (s : State) (k : KeySource) : (s.deriveDigest k).latNext = s.latNext := rfl
@[simp] theorem deriveDigest_clkNext (s : State) (k : KeySource) : (s.deriveDigest k).clkNext = s.clkNext := rfl
@[simp] theorem deriveDigest_byteAt (s : State) (k : KeySource) (x : Nat) : (s.deriveDigest k).byteAt x = s.byteAt x := rfl

/-! ### deriveTrunc -/

@[simp] theorem deriveTrunc_seq (s : State) : s.deriveTrunc.seq = s.seq := rfl
@[simp] theorem deriveTrunc_curCmd (s : State) : s.deriveTrunc.curCmd = s.curCmd := rfl
@[simp] theorem deriveTrunc_done (s : State) : s.deriveTrunc.done = s.done := rfl
@[simp] theorem deriveTrunc_err (s : State) : s.deriveTrunc.err = s.err := rfl
@[simp] theorem deriveTrunc_ecode (s : State) : s.deriveTrunc.ecode = s.ecode := rfl
@[simp] theorem deriveTrunc_ovr (s : State) : s.deriveTrunc.ovr = s.ovr := rfl
@[simp] theorem deriveTrunc_kvalid (s : State) : s.deriveTrunc.kvalid = s.kvalid := rfl
@[simp] theorem deriveTrunc_inLen (s : State) : s.deriveTrunc.inLen = s.inLen := rfl
@[simp] theorem deriveTrunc_outLen (s : State) : s.deriveTrunc.outLen = s.outLen := rfl
@[simp] theorem deriveTrunc_digits (s : State) : s.deriveTrunc.digits = s.digits := rfl
@[simp] theorem deriveTrunc_stepSize (s : State) : s.deriveTrunc.stepSize = s.stepSize := rfl
@[simp] theorem deriveTrunc_counter (s : State) : s.deriveTrunc.counter = s.counter := rfl
@[simp] theorem deriveTrunc_time (s : State) : s.deriveTrunc.time = s.time := rfl
@[simp] theorem deriveTrunc_remain (s : State) : s.deriveTrunc.remain = s.remain := rfl
@[simp] theorem deriveTrunc_trunc (s : State) : s.deriveTrunc.trunc = (truncate s.digest).setWidth 31 := rfl
@[simp] theorem deriveTrunc_code (s : State) : s.deriveTrunc.code = s.code := rfl
@[simp] theorem deriveTrunc_digest (s : State) : s.deriveTrunc.digest = s.digest := rfl
@[simp] theorem deriveTrunc_mem (s : State) : s.deriveTrunc.mem = s.mem := rfl
@[simp] theorem deriveTrunc_inFill (s : State) : s.deriveTrunc.inFill = s.inFill := rfl
@[simp] theorem deriveTrunc_outFill (s : State) : s.deriveTrunc.outFill = s.outFill := rfl
@[simp] theorem deriveTrunc_draws (s : State) : s.deriveTrunc.draws = s.draws := rfl
@[simp] theorem deriveTrunc_actions (s : State) : s.deriveTrunc.actions = s.actions := rfl
@[simp] theorem deriveTrunc_reads (s : State) : s.deriveTrunc.reads = s.reads := rfl
@[simp] theorem deriveTrunc_delay (s : State) : s.deriveTrunc.delay = s.delay := rfl
@[simp] theorem deriveTrunc_latNext (s : State) : s.deriveTrunc.latNext = s.latNext := rfl
@[simp] theorem deriveTrunc_clkNext (s : State) : s.deriveTrunc.clkNext = s.clkNext := rfl
@[simp] theorem deriveTrunc_byteAt (s : State) (x : Nat) : s.deriveTrunc.byteAt x = s.byteAt x := rfl

/-! ### deriveCode -/

@[simp] theorem deriveCode_seq (s : State) : s.deriveCode.seq = s.seq := rfl
@[simp] theorem deriveCode_curCmd (s : State) : s.deriveCode.curCmd = s.curCmd := rfl
@[simp] theorem deriveCode_done (s : State) : s.deriveCode.done = s.done := rfl
@[simp] theorem deriveCode_err (s : State) : s.deriveCode.err = s.err := rfl
@[simp] theorem deriveCode_ecode (s : State) : s.deriveCode.ecode = s.ecode := rfl
@[simp] theorem deriveCode_ovr (s : State) : s.deriveCode.ovr = s.ovr := rfl
@[simp] theorem deriveCode_kvalid (s : State) : s.deriveCode.kvalid = s.kvalid := rfl
@[simp] theorem deriveCode_inLen (s : State) : s.deriveCode.inLen = s.inLen := rfl
@[simp] theorem deriveCode_outLen (s : State) : s.deriveCode.outLen = s.outLen := rfl
@[simp] theorem deriveCode_digits (s : State) : s.deriveCode.digits = s.digits := rfl
@[simp] theorem deriveCode_stepSize (s : State) : s.deriveCode.stepSize = s.stepSize := rfl
@[simp] theorem deriveCode_counter (s : State) : s.deriveCode.counter = s.counter := rfl
@[simp] theorem deriveCode_time (s : State) : s.deriveCode.time = s.time := rfl
@[simp] theorem deriveCode_remain (s : State) : s.deriveCode.remain = s.remain := rfl
@[simp] theorem deriveCode_trunc (s : State) : s.deriveCode.trunc = s.trunc := rfl
@[simp] theorem deriveCode_code (s : State) : s.deriveCode.code = decimalCode s.trunc s.digits := rfl
@[simp] theorem deriveCode_digest (s : State) : s.deriveCode.digest = s.digest := rfl
@[simp] theorem deriveCode_mem (s : State) : s.deriveCode.mem = s.mem := rfl
@[simp] theorem deriveCode_inFill (s : State) : s.deriveCode.inFill = s.inFill := rfl
@[simp] theorem deriveCode_outFill (s : State) : s.deriveCode.outFill = s.outFill := rfl
@[simp] theorem deriveCode_draws (s : State) : s.deriveCode.draws = s.draws := rfl
@[simp] theorem deriveCode_actions (s : State) : s.deriveCode.actions = s.actions := rfl
@[simp] theorem deriveCode_reads (s : State) : s.deriveCode.reads = s.reads := rfl
@[simp] theorem deriveCode_delay (s : State) : s.deriveCode.delay = s.delay := rfl
@[simp] theorem deriveCode_latNext (s : State) : s.deriveCode.latNext = s.latNext := rfl
@[simp] theorem deriveCode_clkNext (s : State) : s.deriveCode.clkNext = s.clkNext := rfl
@[simp] theorem deriveCode_byteAt (s : State) (x : Nat) : s.deriveCode.byteAt x = s.byteAt x := rfl

/-! ### withActions -/

@[simp] theorem withActions_seq (s : State) (l : List Action) : (s.withActions l).seq = s.seq := rfl
@[simp] theorem withActions_curCmd (s : State) (l : List Action) : (s.withActions l).curCmd = s.curCmd := rfl
@[simp] theorem withActions_done (s : State) (l : List Action) : (s.withActions l).done = s.done := rfl
@[simp] theorem withActions_err (s : State) (l : List Action) : (s.withActions l).err = s.err := rfl
@[simp] theorem withActions_ecode (s : State) (l : List Action) : (s.withActions l).ecode = s.ecode := rfl
@[simp] theorem withActions_ovr (s : State) (l : List Action) : (s.withActions l).ovr = s.ovr := rfl
@[simp] theorem withActions_kvalid (s : State) (l : List Action) : (s.withActions l).kvalid = s.kvalid := rfl
@[simp] theorem withActions_inLen (s : State) (l : List Action) : (s.withActions l).inLen = s.inLen := rfl
@[simp] theorem withActions_outLen (s : State) (l : List Action) : (s.withActions l).outLen = s.outLen := rfl
@[simp] theorem withActions_digits (s : State) (l : List Action) : (s.withActions l).digits = s.digits := rfl
@[simp] theorem withActions_stepSize (s : State) (l : List Action) : (s.withActions l).stepSize = s.stepSize := rfl
@[simp] theorem withActions_counter (s : State) (l : List Action) : (s.withActions l).counter = s.counter := rfl
@[simp] theorem withActions_time (s : State) (l : List Action) : (s.withActions l).time = s.time := rfl
@[simp] theorem withActions_remain (s : State) (l : List Action) : (s.withActions l).remain = s.remain := rfl
@[simp] theorem withActions_trunc (s : State) (l : List Action) : (s.withActions l).trunc = s.trunc := rfl
@[simp] theorem withActions_code (s : State) (l : List Action) : (s.withActions l).code = s.code := rfl
@[simp] theorem withActions_digest (s : State) (l : List Action) : (s.withActions l).digest = s.digest := rfl
@[simp] theorem withActions_mem (s : State) (l : List Action) : (s.withActions l).mem = s.mem := rfl
@[simp] theorem withActions_inFill (s : State) (l : List Action) : (s.withActions l).inFill = s.inFill := rfl
@[simp] theorem withActions_outFill (s : State) (l : List Action) : (s.withActions l).outFill = s.outFill := rfl
@[simp] theorem withActions_draws (s : State) (l : List Action) : (s.withActions l).draws = s.draws := rfl
@[simp] theorem withActions_actions (s : State) (l : List Action) : (s.withActions l).actions = l := rfl
@[simp] theorem withActions_reads (s : State) (l : List Action) : (s.withActions l).reads = s.reads := rfl
@[simp] theorem withActions_delay (s : State) (l : List Action) : (s.withActions l).delay = s.delay := rfl
@[simp] theorem withActions_latNext (s : State) (l : List Action) : (s.withActions l).latNext = s.latNext := rfl
@[simp] theorem withActions_clkNext (s : State) (l : List Action) : (s.withActions l).clkNext = s.clkNext := rfl
@[simp] theorem withActions_byteAt (s : State) (l : List Action) (x : Nat) : (s.withActions l).byteAt x = s.byteAt x := rfl

/-! ### spend -/

@[simp] theorem spend_seq (s : State) : s.spend.seq = s.seq := rfl
@[simp] theorem spend_curCmd (s : State) : s.spend.curCmd = s.curCmd := rfl
@[simp] theorem spend_done (s : State) : s.spend.done = s.done := rfl
@[simp] theorem spend_err (s : State) : s.spend.err = s.err := rfl
@[simp] theorem spend_ecode (s : State) : s.spend.ecode = s.ecode := rfl
@[simp] theorem spend_ovr (s : State) : s.spend.ovr = s.ovr := rfl
@[simp] theorem spend_kvalid (s : State) : s.spend.kvalid = s.kvalid := rfl
@[simp] theorem spend_inLen (s : State) : s.spend.inLen = s.inLen := rfl
@[simp] theorem spend_outLen (s : State) : s.spend.outLen = s.outLen := rfl
@[simp] theorem spend_digits (s : State) : s.spend.digits = s.digits := rfl
@[simp] theorem spend_stepSize (s : State) : s.spend.stepSize = s.stepSize := rfl
@[simp] theorem spend_counter (s : State) : s.spend.counter = s.counter := rfl
@[simp] theorem spend_time (s : State) : s.spend.time = s.time := rfl
@[simp] theorem spend_remain (s : State) : s.spend.remain = s.remain := rfl
@[simp] theorem spend_trunc (s : State) : s.spend.trunc = s.trunc := rfl
@[simp] theorem spend_code (s : State) : s.spend.code = s.code := rfl
@[simp] theorem spend_digest (s : State) : s.spend.digest = s.digest := rfl
@[simp] theorem spend_mem (s : State) : s.spend.mem = s.mem := rfl
@[simp] theorem spend_inFill (s : State) : s.spend.inFill = s.inFill := rfl
@[simp] theorem spend_outFill (s : State) : s.spend.outFill = s.outFill := rfl
@[simp] theorem spend_draws (s : State) : s.spend.draws = s.draws := rfl
@[simp] theorem spend_actions (s : State) : s.spend.actions = s.actions := rfl
@[simp] theorem spend_reads (s : State) : s.spend.reads = s.reads := rfl
@[simp] theorem spend_delay (s : State) : s.spend.delay = s.delay - 1 := rfl
@[simp] theorem spend_latNext (s : State) : s.spend.latNext = s.latNext := rfl
@[simp] theorem spend_clkNext (s : State) : s.spend.clkNext = s.clkNext := rfl
@[simp] theorem spend_byteAt (s : State) (x : Nat) : s.spend.byteAt x = s.byteAt x := rfl

/-! ### noteRead -/

@[simp] theorem noteRead_seq (s : State) (v : Word) : (s.noteRead v).seq = s.seq := rfl
@[simp] theorem noteRead_curCmd (s : State) (v : Word) : (s.noteRead v).curCmd = s.curCmd := rfl
@[simp] theorem noteRead_done (s : State) (v : Word) : (s.noteRead v).done = s.done := rfl
@[simp] theorem noteRead_err (s : State) (v : Word) : (s.noteRead v).err = s.err := rfl
@[simp] theorem noteRead_ecode (s : State) (v : Word) : (s.noteRead v).ecode = s.ecode := rfl
@[simp] theorem noteRead_ovr (s : State) (v : Word) : (s.noteRead v).ovr = s.ovr := rfl
@[simp] theorem noteRead_kvalid (s : State) (v : Word) : (s.noteRead v).kvalid = s.kvalid := rfl
@[simp] theorem noteRead_inLen (s : State) (v : Word) : (s.noteRead v).inLen = s.inLen := rfl
@[simp] theorem noteRead_outLen (s : State) (v : Word) : (s.noteRead v).outLen = s.outLen := rfl
@[simp] theorem noteRead_digits (s : State) (v : Word) : (s.noteRead v).digits = s.digits := rfl
@[simp] theorem noteRead_stepSize (s : State) (v : Word) : (s.noteRead v).stepSize = s.stepSize := rfl
@[simp] theorem noteRead_counter (s : State) (v : Word) : (s.noteRead v).counter = s.counter := rfl
@[simp] theorem noteRead_time (s : State) (v : Word) : (s.noteRead v).time = s.time := rfl
@[simp] theorem noteRead_remain (s : State) (v : Word) : (s.noteRead v).remain = s.remain := rfl
@[simp] theorem noteRead_trunc (s : State) (v : Word) : (s.noteRead v).trunc = s.trunc := rfl
@[simp] theorem noteRead_code (s : State) (v : Word) : (s.noteRead v).code = s.code := rfl
@[simp] theorem noteRead_digest (s : State) (v : Word) : (s.noteRead v).digest = s.digest := rfl
@[simp] theorem noteRead_mem (s : State) (v : Word) : (s.noteRead v).mem = s.mem := rfl
@[simp] theorem noteRead_inFill (s : State) (v : Word) : (s.noteRead v).inFill = s.inFill := rfl
@[simp] theorem noteRead_outFill (s : State) (v : Word) : (s.noteRead v).outFill = s.outFill := rfl
@[simp] theorem noteRead_draws (s : State) (v : Word) : (s.noteRead v).draws = s.draws := rfl
@[simp] theorem noteRead_actions (s : State) (v : Word) : (s.noteRead v).actions = s.actions := rfl
@[simp] theorem noteRead_reads (s : State) (v : Word) : (s.noteRead v).reads = v :: s.reads := rfl
@[simp] theorem noteRead_delay (s : State) (v : Word) : (s.noteRead v).delay = s.delay := rfl
@[simp] theorem noteRead_latNext (s : State) (v : Word) : (s.noteRead v).latNext = s.latNext := rfl
@[simp] theorem noteRead_clkNext (s : State) (v : Word) : (s.noteRead v).clkNext = s.clkNext := rfl
@[simp] theorem noteRead_byteAt (s : State) (v : Word) (x : Nat) : (s.noteRead v).byteAt x = s.byteAt x := rfl

/-! ### storeWord -/

@[simp] theorem storeWord_seq (s : State) (a : Nat) (v : Word) : (s.storeWord a v).seq = s.seq := rfl
@[simp] theorem storeWord_curCmd (s : State) (a : Nat) (v : Word) : (s.storeWord a v).curCmd = s.curCmd := rfl
@[simp] theorem storeWord_done (s : State) (a : Nat) (v : Word) : (s.storeWord a v).done = s.done := rfl
@[simp] theorem storeWord_err (s : State) (a : Nat) (v : Word) : (s.storeWord a v).err = s.err := rfl
@[simp] theorem storeWord_ecode (s : State) (a : Nat) (v : Word) : (s.storeWord a v).ecode = s.ecode := rfl
@[simp] theorem storeWord_ovr (s : State) (a : Nat) (v : Word) : (s.storeWord a v).ovr = s.ovr := rfl
@[simp] theorem storeWord_kvalid (s : State) (a : Nat) (v : Word) : (s.storeWord a v).kvalid = s.kvalid := rfl
@[simp] theorem storeWord_inLen (s : State) (a : Nat) (v : Word) : (s.storeWord a v).inLen = s.inLen := rfl
@[simp] theorem storeWord_outLen (s : State) (a : Nat) (v : Word) : (s.storeWord a v).outLen = s.outLen := rfl
@[simp] theorem storeWord_digits (s : State) (a : Nat) (v : Word) : (s.storeWord a v).digits = s.digits := rfl
@[simp] theorem storeWord_stepSize (s : State) (a : Nat) (v : Word) : (s.storeWord a v).stepSize = s.stepSize := rfl
@[simp] theorem storeWord_counter (s : State) (a : Nat) (v : Word) : (s.storeWord a v).counter = s.counter := rfl
@[simp] theorem storeWord_time (s : State) (a : Nat) (v : Word) : (s.storeWord a v).time = s.time := rfl
@[simp] theorem storeWord_remain (s : State) (a : Nat) (v : Word) : (s.storeWord a v).remain = s.remain := rfl
@[simp] theorem storeWord_trunc (s : State) (a : Nat) (v : Word) : (s.storeWord a v).trunc = s.trunc := rfl
@[simp] theorem storeWord_code (s : State) (a : Nat) (v : Word) : (s.storeWord a v).code = s.code := rfl
@[simp] theorem storeWord_digest (s : State) (a : Nat) (v : Word) : (s.storeWord a v).digest = s.digest := rfl
@[simp] theorem storeWord_mem (s : State) (a : Nat) (v : Word) : (s.storeWord a v).mem = s.mem.putBytes a [laneByte v 0, laneByte v 1, laneByte v 2, laneByte v 3] := rfl
@[simp] theorem storeWord_inFill (s : State) (a : Nat) (v : Word) : (s.storeWord a v).inFill = s.inFill := rfl
@[simp] theorem storeWord_outFill (s : State) (a : Nat) (v : Word) : (s.storeWord a v).outFill = s.outFill := rfl
@[simp] theorem storeWord_draws (s : State) (a : Nat) (v : Word) : (s.storeWord a v).draws = s.draws := rfl
@[simp] theorem storeWord_actions (s : State) (a : Nat) (v : Word) : (s.storeWord a v).actions = s.actions := rfl
@[simp] theorem storeWord_reads (s : State) (a : Nat) (v : Word) : (s.storeWord a v).reads = s.reads := rfl
@[simp] theorem storeWord_delay (s : State) (a : Nat) (v : Word) : (s.storeWord a v).delay = s.delay := rfl
@[simp] theorem storeWord_latNext (s : State) (a : Nat) (v : Word) : (s.storeWord a v).latNext = s.latNext := rfl
@[simp] theorem storeWord_clkNext (s : State) (a : Nat) (v : Word) : (s.storeWord a v).clkNext = s.clkNext := rfl

end Sys2Proof.Machine
end

