-- ==== Sys2Proof/Laws/Memory.lean ====
section
/-! SUPPORT. The laws of the buffers' cells: reads after writes, the canonical form, and what a state's byte is after each
operation that changes the cells. -/

namespace Sys2Proof.Machine

/-! ### One cell -/

theorem lookup_put_same (m : Memory) (a : Nat) (v : Byte) : (m.put a v).lookup a = some v := by
  induction m with
  | nil => simp [Memory.put, Memory.lookup]
  | cons c m ih =>
    obtain ⟨b, w⟩ := c
    simp only [Memory.put]
    split
    · simp [Memory.lookup]
    · split
      · simp [Memory.lookup]
      · rename_i _ hne
        simp [Memory.lookup, hne, ih]

theorem lookup_put_other (m : Memory) {a x : Nat} (v : Byte) (h : x ≠ a) : (m.put a v).lookup x = m.lookup x := by
  induction m with
  | nil => simp [Memory.put, Memory.lookup, h]
  | cons c m ih =>
    obtain ⟨b, w⟩ := c
    simp only [Memory.put]
    split
    · simp [Memory.lookup, h]
    · split
      · rename_i _ hab
        simp [Memory.lookup, h, ← hab]
      · simp [Memory.lookup, ih]

/-- What a cell holds after a run of bytes is written from `a` on. -/
theorem lookup_putBytes (l : List Byte) : ∀ (m : Memory) (a x : Nat),
    (m.putBytes a l).lookup x = if a ≤ x ∧ x < a + l.length then l[x - a]? else m.lookup x := by
  induction l with
  | nil =>
    intro m a x
    have : ¬ (a ≤ x ∧ x < a + ([] : List Byte).length) := by simp
    rw [if_neg this]; rfl
  | cons v l ih =>
    intro m a x
    simp only [Memory.putBytes, ih, List.length_cons]
    by_cases hx : x = a
    · subst hx
      rw [if_neg (by omega), if_pos (by omega), lookup_put_same]; simp
    · rw [lookup_put_other m v hx]
      by_cases hin : a + 1 ≤ x ∧ x < a + 1 + l.length
      · rw [if_pos hin, if_pos (by omega), show x - a = (x - (a + 1)) + 1 by omega, List.getElem?_cons_succ]
      · rw [if_neg hin, if_neg (by omega)]

theorem lookup_forget (m : Memory) (lo hi x : Nat) :
    (m.forget lo hi).lookup x = if lo ≤ x ∧ x < hi then none else m.lookup x := by
  induction m with
  | nil => simp [Memory.forget, Memory.lookup]
  | cons c m ih =>
    obtain ⟨b, w⟩ := c
    have ih' : Memory.lookup (m.filter fun c => !(decide (lo ≤ c.1) && decide (c.1 < hi))) x = _ := ih
    by_cases hb : lo ≤ b ∧ b < hi
    · have : (Memory.forget ((b, w) :: m) lo hi) = m.filter fun c => !(decide (lo ≤ c.1) && decide (c.1 < hi)) := by
        simp [Memory.forget, hb]
      rw [this, ih']
      by_cases hx : lo ≤ x ∧ x < hi
      · simp [hx]
      · have : x ≠ b := by rintro rfl; exact hx hb
        rw [if_neg hx, if_neg hx]; simp [Memory.lookup, this]
    · have : (Memory.forget ((b, w) :: m) lo hi)
          = (b, w) :: m.filter fun c => !(decide (lo ≤ c.1) && decide (c.1 < hi)) := by
        rw [Memory.forget, List.filter_cons_of_pos]
        simp only [Bool.not_eq_true', Bool.and_eq_false_iff, decide_eq_false_iff_not]
        omega
      rw [this]
      simp only [Memory.lookup]
      split
      · rename_i hxb; subst hxb; rw [if_neg hb]
      · exact ih'

/-! ### The canonical form -/

theorem mem_put {m : Memory} {a : Nat} {v : Byte} {c : Host.Cell} (h : c ∈ m.put a v) : c = (a, v) ∨ c ∈ m := by
  induction m with
  | nil => simpa [Memory.put] using h
  | cons d m ih =>
    obtain ⟨b, w⟩ := d
    simp only [Memory.put] at h
    split at h
    · simpa using h
    · split at h
      · rcases List.mem_cons.1 h with h | h
        · exact .inl h
        · exact .inr (List.mem_cons_of_mem _ h)
      · rcases List.mem_cons.1 h with h | h
        · exact .inr (h ▸ List.mem_cons_self)
        · exact (ih h).imp id (List.mem_cons_of_mem _)

theorem wf_put {m : Memory} {a : Nat} (v : Byte) (hm : m.wf) (ha : 0x100 ≤ a ∧ a < 0x300) : (m.put a v).wf := by
  refine ⟨?_, fun c hc => ?_⟩
  · have hp := hm.1
    clear hm
    induction m with
    | nil => simp [Memory.put]
    | cons d m ih =>
      obtain ⟨b, w⟩ := d
      have hp' := List.pairwise_cons.1 hp
      simp only [Memory.put]
      split
      · rename_i hab
        refine List.pairwise_cons.2 ⟨fun c hc => ?_, hp⟩
        rcases List.mem_cons.1 hc with rfl | hc
        · exact hab
        · exact hab.trans (hp'.1 c hc)
      · split
        · rename_i _ hab
          subst hab
          exact List.pairwise_cons.2 ⟨hp'.1, hp'.2⟩
        · refine List.pairwise_cons.2 ⟨fun c hc => ?_, ih hp'.2⟩
          rcases mem_put hc with rfl | hc
          · show b < a; omega
          · exact hp'.1 c hc
  · rcases mem_put hc with rfl | hc
    · exact ha
    · exact hm.2 c hc

theorem wf_putBytes (l : List Byte) : ∀ {m : Memory} {a : Nat}, m.wf → 0x100 ≤ a → a + l.length ≤ 0x300 →
    (m.putBytes a l).wf := by
  induction l with
  | nil => intro m a hm _ _; exact hm
  | cons v l ih =>
    intro m a hm ha hl
    simp only [List.length_cons] at hl
    exact ih (wf_put v hm ⟨ha, by omega⟩) (by omega) (by omega)

theorem wf_forget {m : Memory} (lo hi : Nat) (hm : m.wf) : (m.forget lo hi).wf :=
  ⟨hm.1.filter _, fun c hc => hm.2 c (List.mem_of_mem_filter hc)⟩

theorem wf_reset : State.reset.mem.wf := by decide

/-- In canonical form, memories that hold the same known bytes are the same list. -/
theorem wf_ext : ∀ {m m' : Memory}, m.wf → m'.wf → (∀ x, m.lookup x = m'.lookup x) → m = m' := by
  have head_none : ∀ {m : Memory} {x : Nat}, (∀ c ∈ m, x < c.1) → m.lookup x = none := by
    intro m x h
    induction m with
    | nil => rfl
    | cons c m ih =>
      have hc := h c List.mem_cons_self
      have : x ≠ c.1 := by omega
      simp [Memory.lookup, this, ih fun d hd => h d (List.mem_cons_of_mem _ hd)]
  intro m
  induction m with
  | nil =>
    intro m' _ _ h
    cases m' with
    | nil => rfl
    | cons c m' => simpa [Memory.lookup] using h c.1
  | cons c m ih =>
    intro m' hm hm' h
    cases m' with
    | nil => simpa [Memory.lookup] using h c.1
    | cons d m' =>
      obtain ⟨a, v⟩ := c
      obtain ⟨b, w⟩ := d
      have hp := List.pairwise_cons.1 hm.1
      have hp' := List.pairwise_cons.1 hm'.1
      have hab : a = b := by
        rcases Nat.lt_trichotomy a b with hlt | heq | hgt
        · have h1 := h a
          rw [show Memory.lookup ((b, w) :: m') a = none from head_none fun c hc => by
            rcases List.mem_cons.1 hc with rfl | hc
            · exact hlt
            · exact hlt.trans (hp'.1 c hc)] at h1
          simp [Memory.lookup] at h1
        · exact heq
        · have h1 := h b
          rw [show Memory.lookup ((a, v) :: m) b = none from head_none fun c hc => by
            rcases List.mem_cons.1 hc with rfl | hc
            · exact hgt
            · exact hgt.trans (hp.1 c hc)] at h1
          simp [Memory.lookup] at h1
      subst hab
      have hvw : v = w := by simpa [Memory.lookup] using h a
      subst hvw
      rw [ih ⟨hp.2, fun c hc => hm.2 c (List.mem_cons_of_mem _ hc)⟩
        ⟨hp'.2, fun c hc => hm'.2 c (List.mem_cons_of_mem _ hc)⟩]
      intro x
      by_cases hx : x = a
      · subst hx
        rw [head_none hp.1, head_none hp'.1]
      · simpa [Memory.lookup, hx] using h x

/-! ### A state's byte -/

/-- Two states with the same cells and fills have the same bytes. -/
theorem byteAt_congr {s t : State} (hm : t.mem = s.mem) (hi : t.inFill = s.inFill) (ho : t.outFill = s.outFill)
    (x : Nat) : t.byteAt x = s.byteAt x := by
  simp [State.byteAt, hm, hi, ho]

theorem storeWord_byteAt_other (s : State) (a : Nat) (v : Word) {x : Nat} (h : x < a ∨ a + 4 ≤ x) :
    (s.storeWord a v).byteAt x = s.byteAt x := by
  simp only [State.byteAt, storeWord_mem, storeWord_inFill, storeWord_outFill, lookup_putBytes]
  rw [if_neg (by simp only [List.length_cons, List.length_nil]; omega)]

theorem storeWord_byteAt_lane (s : State) (a : Nat) (v : Word) (i : Nat) (h : i < 4) :
    (s.storeWord a v).byteAt (a + i) = laneByte v i := by
  simp only [State.byteAt, storeWord_mem, lookup_putBytes]
  rw [if_pos (by simp only [List.length_cons, List.length_nil]; omega), Nat.add_sub_cancel_left]
  match i, h with
  | 0, _ => rfl
  | 1, _ => rfl
  | 2, _ => rfl
  | 3, _ => rfl

theorem deliverOutput_byteAt_other (s : State) (l : List Byte) (kv : Bool) {x : Nat} (hl : l.length ≤ 0x100)
    (h : x < 0x200 ∨ 0x300 ≤ x) : (s.deliverOutput l kv).byteAt x = s.byteAt x := by
  simp only [State.byteAt, deliverOutput_mem, deliverOutput_inFill, lookup_putBytes, lookup_forget]
  rw [if_neg (by omega), if_neg (by omega), if_neg (by omega), if_neg (by omega)]

theorem deliverOutput_outByte (s : State) (l : List Byte) (kv : Bool) (i : Nat) (h : i < l.length) :
    (s.deliverOutput l kv).outByte i = l[i] := by
  simp only [State.outByte, State.byteAt, deliverOutput_mem, lookup_putBytes]
  rw [if_pos (by omega), Nat.add_sub_cancel_left, List.getElem?_eq_getElem h]

theorem withholdOutput_byteAt_other (s : State) {x : Nat} (h : x < 0x200 ∨ 0x300 ≤ x) :
    s.withholdOutput.byteAt x = s.byteAt x := by
  simp only [State.byteAt, withholdOutput_mem, withholdOutput_inFill, lookup_forget]
  rw [if_neg (by omega), if_neg (by omega), if_neg (by omega)]

end Sys2Proof.Machine
end

