-- ==== Sys2Proof/Laws/Ops.lean ====
section
/-! SUPPORT. One lemma per shared operation that says everything it can do; proofs about commands and steps cite these. -/

namespace Sys2Proof.Machine

/-! ### Checks and shared shapes of commands -/

theorem lengthError_eq_none {s : State} : s.lengthError = none ↔ s.inLen.toNat ≤ 256 := by
  simp [State.lengthError]

theorem lengthError_cases (s : State) : s.lengthError = none ∨ s.lengthError = some .badLength := by
  simp only [State.lengthError]; split <;> simp

theorem keyError_eq_none {s : State} {k : KeySource} : s.keyError k = none ↔ s.keyReady k := by
  cases k
  · exact lengthError_eq_none
  · simp only [State.keyError, State.keyReady]; split <;> simp_all

theorem keyError_cases (s : State) (k : KeySource) :
    s.keyError k = none ∨ s.keyError k = some .badLength ∨ s.keyError k = some .noKey := by
  cases k
  · exact (lengthError_cases s).imp id .inl
  · simp only [State.keyError]; split <;> simp

theorem stepError_eq_none {s : State} : s.stepError = none ↔ 1 ≤ s.stepSize.toNat ∧ s.stepSize.toNat ≤ 255 := by
  simp only [State.stepError]
  split <;> simp <;> omega

theorem stepError_cases (s : State) : s.stepError = none ∨ s.stepError = some .badStep := by
  simp only [State.stepError]; split <;> simp

theorem digitsError_eq_none {s : State} : s.digitsError = none ↔ 1 ≤ s.digits.toNat ∧ s.digits.toNat ≤ 9 := by
  simp only [State.digitsError]
  split <;> simp <;> omega

theorem digitsError_cases (s : State) : s.digitsError = none ∨ s.digitsError = some .badDigits := by
  simp only [State.digitsError]; split <;> simp

theorem textError_cases (t : List Byte) :
    textError t = some .nonAscii ∨ textError t = some .invalidChar ∨
      (textError t = none ∧ asciiText t = true ∧ inAlphabet (upperText t) = true) := by
  simp only [textError]
  split
  · simp
  · split <;> simp_all

/-- The two ways a checked command ends (R145). -/
theorem checked_cases (s : State) (err : Option ECode) (effect : State) :
    (∃ e, err = some e ∧ s.checked err effect = s.finish .idle e) ∨
      (err = none ∧ s.checked err effect = effect.finish .idle .ok) := by
  cases err <;> simp [State.checked]

/-- The three ways a command that samples the clock ends (R145, R155). -/
theorem timed_cases (s : State) (err : Option ECode) (body : State → State) :
    (∃ e, err = some e ∧ s.timed err body = s.finish .idle e) ∨
    (err = none ∧ s.clockSample = .beforeEpoch ∧ s.timed err body = s.sampled.finish .faulted .clockBeforeEpoch) ∨
    (∃ t, err = none ∧ s.clockSample = .secs t ∧
      s.timed err body = (body (s.sampled.writeTimeStep t)).finish .idle .ok) := by
  cases err with
  | some e => exact .inl ⟨e, rfl, rfl⟩
  | none =>
    cases h : s.clockSample with
    | beforeEpoch => exact .inr (.inl ⟨rfl, rfl, by simp [State.timed, h, State.takeReading]⟩)
    | secs t => exact .inr (.inr ⟨t, rfl, rfl, by simp [State.timed, h, State.takeReading]⟩)

/-- The three ways a command over a text ends (R97, R145). -/
theorem textCommand_cases (s : State) (output : List Byte → List Byte) (kv : Bool) :
    (s.lengthError = some .badLength ∧ s.textCommand output kv = s.finish .idle .badLength) ∨
    (∃ e, s.lengthError = none ∧ textError s.text = some e ∧
      s.textCommand output kv = s.withholdOutput.finish .idle e) ∨
    (s.lengthError = none ∧ textError s.text = none ∧
      s.textCommand output kv = (s.deliverOutput (output (upperText s.text)) kv).finish .idle .ok) := by
  rcases lengthError_cases s with h | h
  · cases ht : textError s.text with
    | some e => exact .inr (.inl ⟨e, h, rfl, by simp [State.textCommand, h, ht]⟩)
    | none => exact .inr (.inr ⟨h, rfl, by simp [State.textCommand, h, ht]⟩)
  · exact .inl ⟨h, by simp [State.textCommand, h]⟩

theorem text_length (s : State) : s.text.length = s.inLen.toNat := by
  simp [State.text, State.inBytes]

/-- Every command's meaning answers a next state. -/
theorem exec_next (i : Instr) (s : State) : ∃ t, exec i s = .next t := by
  cases i <;> exact ⟨_, rfl⟩

/-! ### Host accesses -/

/-- The three things a host read can be (R65). -/
theorem memRead_cases (off : Offset) (s : State) :
    (aligned off = false ∧ memRead off s = ⟨.busError, 0#32, s⟩) ∨
    (aligned off = true ∧ s.seq = .busy ∧ (slotOf off).isResult = true ∧
      memRead off s = ⟨.ok, Config.freeWord s.draws, { s with draws := s.draws + 1 }⟩) ∨
    (aligned off = true ∧ ¬ (s.seq = .busy ∧ (slotOf off).isResult = true) ∧
      memRead off s = ⟨.ok, s.slotValue off, s⟩) := by
  unfold memRead
  split
  · exact .inl ⟨by assumption, rfl⟩
  · split
    · rename_i h hb; exact .inr (.inl ⟨by simpa using h, hb.1, hb.2, rfl⟩)
    · rename_i h hb; exact .inr (.inr ⟨by simpa using h, hb, rfl⟩)

/-- The things a host write can be (R66). -/
theorem memWrite_cases (off : Offset) (v : Word) (s : State) :
    (aligned off = false ∧ memWrite off v s = ⟨.busError, s⟩) ∨
    (aligned off = true ∧ slotOf off = .status ∧
      memWrite off v s = ⟨.ok, if v.getLsbD 8 then s.clearOvr else s⟩) ∨
    (aligned off = true ∧ slotOf off ≠ .status ∧ s.seq = .busy ∧ memWrite off v s = ⟨.ok, s.setOvr⟩) ∨
    (aligned off = true ∧ slotOf off = .cmd ∧ s.seq = .idle ∧ memWrite off v s = ⟨.ok, s.accept v⟩) ∨
    (aligned off = true ∧ slotOf off = .cmd ∧ s.seq = .faulted ∧ memWrite off v s = ⟨.ok, s⟩) ∨
    (aligned off = true ∧ slotOf off ≠ .status ∧ slotOf off ≠ .cmd ∧ s.seq ≠ .busy ∧
      memWrite off v s = ⟨.ok, s.storeSlot off v⟩) := by
  unfold memWrite
  split
  · exact .inl ⟨by assumption, rfl⟩
  · rename_i ha
    have ha : aligned off = true := by simpa using ha
    split
    · rename_i h; exact .inr (.inl ⟨ha, h, rfl⟩)
    · rename_i hst
      split
      · rename_i h; exact .inr (.inr (.inl ⟨ha, hst, h, rfl⟩))
      · rename_i hb
        split
        · rename_i hc
          cases hq : s.seq with
          | idle => exact .inr (.inr (.inr (.inl ⟨ha, hc, rfl, by simp⟩)))
          | busy => exact absurd hq hb
          | faulted => exact .inr (.inr (.inr (.inr (.inl ⟨ha, hc, rfl, by simp⟩))))
        · rename_i hc; exact .inr (.inr (.inr (.inr (.inr ⟨ha, hst, hc, hb, rfl⟩))))

/-- Which registers a stored host write can change, and to what (R66): one of these, or nothing. -/
theorem storeSlot_cases (s : State) (off : Offset) (v : Word) :
    s.storeSlot off v = s ∨
    s.storeSlot off v = { s with inLen := v.setWidth 16 } ∨
    s.storeSlot off v = { s with digits := v.setWidth 8 } ∨
    (∃ x, s.storeSlot off v = { s with stepSize := x }) ∨
    (∃ x, s.storeSlot off v = { s with counter := x }) ∨
    s.storeSlot off v = { s with trunc := v.setWidth 31 } ∨
    (∃ k, s.storeSlot off v = { s with digest := s.digest.withWord k v }) ∨
    (slotOf off = .inBuf ∧ s.storeSlot off v = s.storeWord off.toNat v) := by
  unfold State.storeSlot
  split
  all_goals
    first
      | exact .inl rfl
      | exact .inr (.inl rfl)
      | exact .inr (.inr (.inl rfl))
      | exact .inr (.inr (.inr (.inl ⟨_, rfl⟩)))
      | exact .inr (.inr (.inr (.inr (.inl ⟨_, rfl⟩))))
      | exact .inr (.inr (.inr (.inr (.inr (.inl rfl)))))
      | exact .inr (.inr (.inr (.inr (.inr (.inr (.inl ⟨_, rfl⟩))))))
      | exact .inr (.inr (.inr (.inr (.inr (.inr (.inr ⟨by assumption, rfl⟩))))))

/-! ### Steps -/

/-- Whose turn it is (R165, R177). -/
theorem turn_cases (s : State) :
    (∃ rest, s.actions = .rst :: rest ∧ s.turn = .reset rest) ∨
    (s.seq = .busy ∧ (s.delay = 0 ∨ s.actions = []) ∧ (∀ rest, s.actions ≠ .rst :: rest) ∧ s.turn = .engine) ∨
    (∃ a rest, s.actions = a :: rest ∧ a ≠ .rst ∧ ¬ (s.seq = .busy ∧ s.delay = 0) ∧ s.turn = .act a rest) ∨
    (s.seq ≠ .busy ∧ s.actions = [] ∧ s.turn = .quiet) := by
  cases ha : s.actions with
  | nil =>
    by_cases hb : s.seq = .busy
    · refine .inr (.inl ⟨hb, .inr rfl, by simp, ?_⟩)
      simp [State.turn, State.turnWithoutReset, ha, hb]
    · exact .inr (.inr (.inr ⟨hb, rfl, by simp [State.turn, State.turnWithoutReset, ha, hb]⟩))
  | cons a rest =>
    by_cases hr : a = .rst
    · subst hr; exact .inl ⟨rest, rfl, by simp [State.turn, ha]⟩
    · have ht : s.turn = s.turnWithoutReset := by
        unfold State.turn
        split
        · rename_i rest' h
          exact absurd (List.cons.inj (ha.symm.trans h)).1 hr
        · rfl
      by_cases hb : s.seq = .busy ∧ s.delay = 0
      · refine .inr (.inl ⟨hb.1, .inl hb.2, ?_, ?_⟩)
        · intro rest' h; exact hr (List.cons.inj h).1
        · rw [ht, State.turnWithoutReset, if_pos hb]
      · refine .inr (.inr (.inl ⟨a, rest, rfl, hr, hb, ?_⟩))
        rw [ht, State.turnWithoutReset, if_neg hb, ha]

/-- Everything a step can do: reset, the engine's completion, an action, or nothing. -/
theorem step_cases (s : State) :
    (∃ rest, s.actions = .rst :: rest ∧ step s = .next (s.withActions rest).applyReset) ∨
    (s.seq = .busy ∧ (s.delay = 0 ∨ s.actions = []) ∧ (∀ rest, s.actions ≠ .rst :: rest) ∧ step s = engineStep s) ∨
    (∃ a rest, s.actions = a :: rest ∧ a ≠ .rst ∧ ¬ (s.seq = .busy ∧ s.delay = 0) ∧
      step s = perform a (s.withActions rest)) ∨
    (s.seq ≠ .busy ∧ s.actions = [] ∧ step s = .next s) := by
  rcases turn_cases s with ⟨rest, h, ht⟩ | ⟨h1, h2, h3, ht⟩ | ⟨a, rest, h1, h2, h3, ht⟩ | ⟨h1, h2, ht⟩
  · exact .inl ⟨rest, h, by simp [step, ht, perform]⟩
  · exact .inr (.inl ⟨h1, h2, h3, by simp [step, ht]⟩)
  · exact .inr (.inr (.inl ⟨a, rest, h1, h2, h3, by simp [step, ht]⟩))
  · exact .inr (.inr (.inr ⟨h1, h2, by simp [step, ht]⟩))

/-- What the engine's completion step can be: the decoded command, or ILLEGAL_CMD (R75, R176). -/
theorem engineStep_cases (s : State) :
    (∃ i, decode s.curCmd = .instr i ∧ engineStep s = exec i s) ∨
    (∃ r, decode s.curCmd = .reject r ∧ engineStep s = .next (s.finish .idle .illegalCmd)) := by
  cases h : decode s.curCmd with
  | instr i => exact .inl ⟨i, rfl, by simp [engineStep, h]⟩
  | reject r => exact .inr ⟨r, rfl, by simp [engineStep, h]⟩

theorem dropResets_head (l rest : List Action) : dropResets l ≠ .rst :: rest := by
  induction l with
  | nil => simp [dropResets]
  | cons a l ih =>
    cases a <;> simp [dropResets, ih]

/-- A presented word is completed by the very next step. -/
theorem step_present (s : State) (w : Word) : step (s.present w) = engineStep (s.present w) := by
  rcases step_cases (s.present w) with ⟨rest, h, _⟩ | ⟨_, _, _, h⟩ | ⟨a, rest, _, _, h, _⟩ | ⟨h, _, _⟩
  · exact absurd h (dropResets_head s.actions rest)
  · exact h
  · exact absurd ⟨rfl, rfl⟩ h
  · exact absurd rfl h

end Sys2Proof.Machine
end

