-- ==== Sys2Proof/Laws/Exec.lean ====
section
/-! SUPPORT. What `exec` can answer, said once over all eight commands: an error of its checks, a data error, the fault, or success
with the command's effect. Frames and whole-machine rules are case splits over `exec_cases`. -/

namespace Sys2Proof.Machine

/-- The error of a command's checks 2 to 5 (R147), if there is one. -/
def checkError (i : Instr) (s : State) : Option ECode :=
  match i with
  | .validate => s.lengthError
  | .decode => s.lengthError
  | .tstep => s.stepError
  | .hmac k => s.keyError k
  | .trunc => none
  | .modc => s.digitsError
  | .code k => (s.keyError k).or s.digitsError
  | .totp k => (s.keyError k).or (s.stepError.or s.digitsError)

/-- `u` is the state a command that succeeds has reached just before it completes. -/
def Succeeds (i : Instr) (s u : State) : Prop :=
  match i with
  | .validate => textError s.text = none ∧ u = s.deliverOutput (upperText s.text) false
  | .decode => textError s.text = none ∧ u = s.deliverOutput (decodedBytes (upperText s.text)) true
  | .tstep => ∃ c, s.clockSample = .secs c ∧ u = s.sampled.writeTimeStep c
  | .hmac k => u = s.deriveDigest k
  | .trunc => u = s.deriveTrunc
  | .modc => u = s.deriveCode
  | .code k => u = (s.deriveDigest k).deriveTrunc.deriveCode
  | .totp k => ∃ c, s.clockSample = .secs c ∧ u = ((s.sampled.writeTimeStep c).deriveDigest k).deriveTrunc.deriveCode

/-- The error codes that the checks 2 to 5 can give. -/
theorem checkError_mem {i : Instr} {s : State} {e : ECode} (h : checkError i s = some e) :
    e ∈ [ECode.badLength, .noKey, .badStep, .badDigits] := by
  cases i
  case validate => rcases lengthError_cases s with h' | h' <;> simp_all [checkError]
  case decode => rcases lengthError_cases s with h' | h' <;> simp_all [checkError]
  case tstep => rcases stepError_cases s with h' | h' <;> simp_all [checkError]
  case hmac k => rcases keyError_cases s k with h' | h' | h' <;> simp_all [checkError]
  case trunc => simp [checkError] at h
  case modc => rcases digitsError_cases s with h' | h' <;> simp_all [checkError]
  case code k =>
    rcases keyError_cases s k with h' | h' | h' <;> rcases digitsError_cases s with h'' | h'' <;> simp_all [checkError]
  case totp k =>
    rcases keyError_cases s k with h' | h' | h' <;> rcases stepError_cases s with h2 | h2 <;>
      rcases digitsError_cases s with h3 | h3 <;> simp_all [checkError]

/-- The error codes of a text (R146). -/
theorem textError_mem {t : List Byte} {e : ECode} (h : textError t = some e) : e ∈ [ECode.nonAscii, .invalidChar] := by
  rcases textError_cases t with h' | h' | ⟨h', _⟩ <;> simp_all

/-- Everything `exec` can answer (R145, R148). -/
theorem exec_cases {i : Instr} {s t : State} (h : exec i s = .next t) :
    (∃ e, checkError i s = some e ∧ t = s.finish .idle e) ∨
    (∃ e, checkError i s = none ∧ readsText i = true ∧ textError s.text = some e ∧
      t = s.withholdOutput.finish .idle e) ∨
    (checkError i s = none ∧ readsClock i = true ∧ s.clockSample = .beforeEpoch ∧
      t = s.sampled.finish .faulted .clockBeforeEpoch) ∨
    (∃ u, checkError i s = none ∧ Succeeds i s u ∧ t = u.finish .idle .ok) := by
  cases i <;> cases h
  case validate =>
    rcases textCommand_cases s id false with ⟨h1, h2⟩ | ⟨e, h1, h2, h3⟩ | ⟨h1, h2, h3⟩
    · exact .inl ⟨_, h1, h2⟩
    · exact .inr (.inl ⟨e, h1, rfl, h2, h3⟩)
    · exact .inr (.inr (.inr ⟨_, h1, ⟨h2, rfl⟩, h3⟩))
  case decode =>
    rcases textCommand_cases s decodedBytes true with ⟨h1, h2⟩ | ⟨e, h1, h2, h3⟩ | ⟨h1, h2, h3⟩
    · exact .inl ⟨_, h1, h2⟩
    · exact .inr (.inl ⟨e, h1, rfl, h2, h3⟩)
    · exact .inr (.inr (.inr ⟨_, h1, ⟨h2, rfl⟩, h3⟩))
  case tstep =>
    rcases timed_cases s s.stepError id with ⟨e, h1, h2⟩ | ⟨h1, h2, h3⟩ | ⟨c, h1, h2, h3⟩
    · exact .inl ⟨e, h1, h2⟩
    · exact .inr (.inr (.inl ⟨h1, rfl, h2, h3⟩))
    · exact .inr (.inr (.inr ⟨_, h1, ⟨c, h2, rfl⟩, h3⟩))
  case hmac k =>
    rcases checked_cases s (s.keyError k) (s.deriveDigest k) with ⟨e, h1, h2⟩ | ⟨h1, h2⟩
    · exact .inl ⟨e, h1, h2⟩
    · exact .inr (.inr (.inr ⟨_, h1, rfl, h2⟩))
  case trunc => exact .inr (.inr (.inr ⟨_, rfl, rfl, rfl⟩))
  case modc =>
    rcases checked_cases s s.digitsError s.deriveCode with ⟨e, h1, h2⟩ | ⟨h1, h2⟩
    · exact .inl ⟨e, h1, h2⟩
    · exact .inr (.inr (.inr ⟨_, h1, rfl, h2⟩))
  case code k =>
    rcases checked_cases s ((s.keyError k).or s.digitsError) ((s.deriveDigest k).deriveTrunc.deriveCode)
      with ⟨e, h1, h2⟩ | ⟨h1, h2⟩
    · exact .inl ⟨e, h1, h2⟩
    · exact .inr (.inr (.inr ⟨_, h1, rfl, h2⟩))
  case totp k =>
    rcases timed_cases s ((s.keyError k).or (s.stepError.or s.digitsError))
      (fun s' => (s'.deriveDigest k).deriveTrunc.deriveCode) with ⟨e, h1, h2⟩ | ⟨h1, h2, h3⟩ | ⟨c, h1, h2, h3⟩
    · exact .inl ⟨e, h1, h2⟩
    · exact .inr (.inr (.inl ⟨h1, rfl, h2, h3⟩))
    · exact .inr (.inr (.inr ⟨_, h1, ⟨c, h2, rfl⟩, h3⟩))

/-- A command whose checks pass and that has an effect completes with it. -/
theorem exec_of_succeeds {i : Instr} {s u : State} (hc : checkError i s = none) (h : Succeeds i s u) :
    exec i s = .next (u.finish .idle .ok) := by
  obtain ⟨t, ht⟩ := exec_next i s
  rw [ht]
  rcases exec_cases ht with ⟨e, h1, _⟩ | ⟨e, _, h1, h2, _⟩ | ⟨_, h1, h2, _⟩ | ⟨v, _, h1, h2⟩
  · rw [hc] at h1; cases h1
  · cases i <;> simp [readsText] at h1 <;> rw [h.1] at h2 <;> cases h2
  · cases i <;> simp [readsClock] at h1 <;> obtain ⟨c, h3, _⟩ := h <;> rw [h2] at h3 <;> cases h3
  · have : v = u := by
      cases i <;> simp only [Succeeds] at h h1
      case validate => rw [h1.2, h.2]
      case decode => rw [h1.2, h.2]
      case tstep =>
        obtain ⟨c, h3, rfl⟩ := h; obtain ⟨d, h4, rfl⟩ := h1
        rw [h3] at h4; cases h4; rfl
      case totp =>
        obtain ⟨c, h3, rfl⟩ := h; obtain ⟨d, h4, rfl⟩ := h1
        rw [h3] at h4; cases h4; rfl
      all_goals rw [h1, h]
    rw [h2, this]

end Sys2Proof.Machine
end

