-- ==== Sys2Proof/Laws/Agents.lean ====
section
/-! SUPPORT. The register map's offsets, and what a step of the host or the environment can do. -/

namespace Sys2Proof.Machine

/-! ### Offsets -/

theorem aligned_iff {off : Offset} : aligned off = true ↔ off.toNat % 4 = 0 := by
  revert off; decide +kernel

theorem aligned_false_iff {off : Offset} : aligned off = false ↔ off.toNat % 4 ≠ 0 := by
  rw [← not_iff_not]; simpa using aligned_iff

theorem slotOf_eq_status {off : Offset} : slotOf off = .status ↔ off = 0x008#10 := by
  revert off; decide +kernel

theorem slotOf_eq_cmd {off : Offset} : slotOf off = .cmd ↔ off = 0x004#10 := by
  revert off; decide +kernel

theorem slotOf_eq_inBuf {off : Offset} : slotOf off = .inBuf ↔ 0x100 ≤ off.toNat ∧ off.toNat < 0x200 := by
  revert off; decide +kernel

theorem slotOf_eq_outBuf {off : Offset} : slotOf off = .outBuf ↔ 0x200 ≤ off.toNat ∧ off.toNat < 0x300 := by
  revert off; decide +kernel

/-- The offsets of the result registers (R65, R179). -/
theorem isResult_iff {off : Offset} (ha : off.toNat % 4 = 0) : (slotOf off).isResult = true ↔
    off.toNat = 0x010 ∨ (0x020 ≤ off.toNat ∧ off.toNat ≤ 0x038) ∨ (0x040 ≤ off.toNat ∧ off.toNat ≤ 0x050) ∨
      (0x200 ≤ off.toNat ∧ off.toNat < 0x300) := by
  revert off; decide +kernel

/-! ### Accesses and actions -/

theorem misaligned_write {off : Offset} {v : Word} : (Action.write off v).misaligned = false ↔ aligned off = true := by
  rw [aligned_iff]; simp [Action.misaligned]

theorem misaligned_read {off : Offset} : (Action.read off).misaligned = false ↔ aligned off = true := by
  rw [aligned_iff]; simp [Action.misaligned]

/-- An aligned write goes over the bus and completes (R66). -/
theorem hostWrite_aligned {off : Offset} (v : Word) (s : State) (h : aligned off = true) :
    hostWrite off v s = .next (memWrite off v s.spend).after := by
  have : (memWrite off v s.spend).status = .ok := by
    rcases memWrite_cases off v s.spend with h' | h' | h' | h' | h' | h'
    · rw [h] at h'; cases h'.1
    · rw [h'.2.2]
    · rw [h'.2.2.2]
    · rw [h'.2.2.2]
    · rw [h'.2.2.2]
    · rw [h'.2.2.2.2]
  rw [hostWrite, this]

/-- An aligned read goes over the bus, completes, and its value is kept (R65). -/
theorem hostRead_aligned {off : Offset} (s : State) (h : aligned off = true) :
    hostRead off s = .next ((memRead off s.spend).after.noteRead (memRead off s.spend).data) := by
  have : (memRead off s.spend).status = .ok := by
    rcases memRead_cases off s.spend with h' | h' | h'
    · rw [h] at h'; cases h'.1
    · rw [h'.2.2.2]
    · rw [h'.2.2]
  rw [hostRead, this]

/-- A misaligned write is a bus error (R54). -/
theorem hostWrite_misaligned {off : Offset} (v : Word) (s : State) (h : aligned off = false) :
    hostWrite off v s = .fault (.busError off) := by
  simp [hostWrite, memWrite, h]

/-- A misaligned read is a bus error (R54). -/
theorem hostRead_misaligned {off : Offset} (s : State) (h : aligned off = false) :
    hostRead off s = .fault (.busError off) := by
  simp [hostRead, memRead, h]

/-- The reads a completed step can add, and the fields it can touch by a read: nothing of the block (R56). -/
theorem hostRead_next {off : Offset} {s t : State} (h : hostRead off s = .next t) :
    aligned off = true ∧ ∃ v n, t = { s.spend with draws := n, reads := v :: s.reads } := by
  by_cases ha : aligned off = true
  · refine ⟨ha, ?_⟩
    rw [hostRead_aligned s ha] at h
    cases h
    rcases memRead_cases off s.spend with h' | h' | h'
    · rw [ha] at h'; cases h'.1
    · rw [h'.2.2.2]; exact ⟨_, _, rfl⟩
    · rw [h'.2.2]; exact ⟨_, s.draws, rfl⟩
  · rw [hostRead_misaligned s (by simpa using ha)] at h; cases h

/-- What a host write can make of the state (R25, R39, R66, R156, R175, R178). -/
theorem hostWrite_next {off : Offset} {v : Word} {s t : State} (h : hostWrite off v s = .next t) :
    aligned off = true ∧
    ((off = 0x008#10 ∧ t = if v.getLsbD 8 then s.spend.clearOvr else s.spend) ∨
     (off ≠ 0x008#10 ∧ s.seq = .busy ∧ t = s.spend.setOvr) ∨
     (off = 0x004#10 ∧ s.seq = .idle ∧ t = s.spend.accept v) ∨
     (off = 0x004#10 ∧ s.seq = .faulted ∧ t = s.spend) ∨
     (off ≠ 0x008#10 ∧ off ≠ 0x004#10 ∧ s.seq ≠ .busy ∧ t = s.spend.storeSlot off v)) := by
  by_cases ha : aligned off = true
  · refine ⟨ha, ?_⟩
    rw [hostWrite_aligned v s ha] at h
    cases h
    have e1 := @slotOf_eq_status off
    have e2 := @slotOf_eq_cmd off
    rcases memWrite_cases off v s.spend with h' | h' | h' | h' | h' | h'
    · rw [ha] at h'; cases h'.1
    · exact .inl ⟨e1.1 h'.2.1, by rw [h'.2.2]⟩
    · exact .inr (.inl ⟨fun h => h'.2.1 (e1.2 h), h'.2.2.1, by rw [h'.2.2.2]⟩)
    · exact .inr (.inr (.inl ⟨e2.1 h'.2.1, h'.2.2.1, by rw [h'.2.2.2]⟩))
    · exact .inr (.inr (.inr (.inl ⟨e2.1 h'.2.1, h'.2.2.1, by rw [h'.2.2.2]⟩)))
    · exact .inr (.inr (.inr (.inr ⟨fun h => h'.2.1 (e1.2 h), fun h => h'.2.2.1 (e2.2 h), h'.2.2.2.1,
        by rw [h'.2.2.2.2]⟩)))
  · rw [hostWrite_misaligned v s (by simpa using ha)] at h; cases h

/-- BUSY, as the bit the host polls (R79). -/
theorem statusWord_bit0 (s : State) : s.statusWord.getLsbD 0 = s.busyFlag := by
  have : ∀ k o e f r d b, (statusBits k o e f r d b).getLsbD 0 = b := by
    intro k o e; cases e <;> revert k o <;> decide
  exact this ..

/-- What one round of WAIT makes of the state (R79). -/
theorem hostWait_eq (s : State) : hostWait s =
    .next (if s.seq = .busy then (s.spend.noteRead s.statusWord).withActions (.wait :: s.actions)
           else s.spend.noteRead s.statusWord) := by
  rw [hostWait, statusWord_bit0]
  by_cases h : s.seq = .busy <;> simp [State.busyFlag, h]

/-- A step that is an action's turn does the action. -/
theorem step_act {s : State} {a : Action} {rest : List Action} (h : s.actions = a :: rest) (hr : a ≠ .rst)
    (hb : ¬ (s.seq = .busy ∧ s.delay = 0)) : step s = perform a (s.withActions rest) := by
  rcases step_cases s with ⟨r, h3, _⟩ | ⟨h5, h6, _, _⟩ | ⟨a', r, h3, _, _, h5⟩ | ⟨_, h4, _⟩
  · rw [h] at h3; exact absurd (List.cons.inj h3).1 hr
  · rcases h6 with h6 | h6
    · exact absurd ⟨h5, h6⟩ hb
    · rw [h] at h6; cases h6
  · obtain ⟨rfl, rfl⟩ := List.cons.inj (h.symm.trans h3); exact h5
  · rw [h] at h4; cases h4

/-- The engine's turn: an accepted command with no host access due, and no `rst` at the front. -/
theorem step_engine {s : State} (hb : s.seq = .busy) (hd : s.delay = 0 ∨ s.actions = [])
    (hr : ∀ rest, s.actions ≠ .rst :: rest) : step s = engineStep s := by
  rcases step_cases s with ⟨r, h3, _⟩ | ⟨_, _, _, h⟩ | ⟨a, r, h3, _, h4, _⟩ | ⟨h, _, _⟩
  · exact absurd h3 (hr r)
  · exact h
  · rcases hd with hd | hd
    · exact absurd ⟨hb, hd⟩ h4
    · rw [h3] at hd; cases hd
  · exact absurd hb h

end Sys2Proof.Machine
end

