-- ==== Sys2Proof/Laws/Codec.lean ====
section
/-! SUPPORT. The codec's lengths, and the text checks in terms of the single bytes of a text. -/

namespace Sys2Proof.Machine

@[simp] theorem upperText_length (t : List Byte) : (upperText t).length = t.length := by simp [upperText]

/-- A symbol of the alphabet has five bits. -/
theorem symbolBits_length {b : Byte} (h : (symbolValue b).isSome = true) : (symbolBits b).length = 5 := by
  unfold symbolBits
  cases hv : symbolValue b with
  | none => simp [hv] at h
  | some v => rfl

/-- The bit stream of a text over the alphabet has `5n` bits (R91). -/
theorem bitStream_length {u : List Byte} (h : inAlphabet u = true) : (bitStream u).length = 5 * u.length := by
  induction u with
  | nil => rfl
  | cons b u ih =>
    simp only [inAlphabet, List.all_cons, Bool.and_eq_true] at h
    simp only [bitStream, List.flatMap_cons, List.length_append, List.length_cons] at ih ⊢
    rw [symbolBits_length h.1, ih h.2]
    omega

/-- Packing gives `floor(length / 8)` bytes (R92). -/
theorem packBytes_length (l : List Bool) : (packBytes l).length = l.length / 8 := by
  induction l using packBytes.induct with
  | case1 b7 b6 b5 b4 b3 b2 b1 b0 rest ih =>
    rw [packBytes]
    simp only [List.length_cons, ih]
    omega
  | case2 l h =>
    rw [packBytes]
    · match l, h with
      | [], _ | [_], _ | [_, _], _ | [_, _, _], _ | [_, _, _, _], _ | [_, _, _, _, _], _ | [_, _, _, _, _, _], _
      | [_, _, _, _, _, _, _], _ => simp
      | b7 :: b6 :: b5 :: b4 :: b3 :: b2 :: b1 :: b0 :: rest, h => exact absurd rfl (h b7 b6 b5 b4 b3 b2 b1 b0 rest)
    · exact h

theorem decodedBytes_length {u : List Byte} (h : inAlphabet u = true) :
    (decodedBytes u).length = 5 * u.length / 8 := by
  rw [decodedBytes, packBytes_length, bitStream_length h]

/-- The alphabet after upper-casing is `[A-Za-z2-7]` (R96). -/
theorem symbolValue_upper_isSome (b : Byte) : (symbolValue (upper b)).isSome = base32Char b := by
  revert b; decide +kernel

/-- The value of an upper-cased symbol, in plain numbers (R85, R87). -/
theorem symbolValue_upper {b : Byte} (h : base32Char b = true) :
    symbolValue (upper b) = some (BitVec.ofNat 5 (base32Value b)) := by
  revert b; decide +kernel

theorem base32Char_ascii {b : Byte} (h : base32Char b = true) : b.toNat < 0x80 := by
  revert b; decide +kernel

theorem inAlphabet_upperText (t : List Byte) : inAlphabet (upperText t) = t.all base32Char := by
  simp only [inAlphabet, upperText, List.all_map]
  congr 1
  funext b
  exact symbolValue_upper_isSome b

/-- A text passes both checks exactly when each byte is in `[A-Za-z2-7]` (R86, R88, R96). -/
theorem textError_eq_none {t : List Byte} : textError t = none ↔ ∀ b ∈ t, base32Char b = true := by
  rcases textError_cases t with h | h | ⟨h, _, h'⟩
  · constructor
    · rw [h]; simp
    · intro hb
      have : asciiText t = true := by
        simp only [asciiText, List.all_eq_true, decide_eq_true_eq]
        exact fun b hm => base32Char_ascii (hb b hm)
      simp [textError, this] at h
  · constructor
    · rw [h]; simp
    · intro hb
      have : inAlphabet (upperText t) = true := by
        rw [inAlphabet_upperText]; exact List.all_eq_true.2 hb
      simp [textError, this] at h
  · rw [h]
    rw [inAlphabet_upperText] at h'
    simpa using List.all_eq_true.1 h'

/-- NON_ASCII exactly when some byte is at least 0x80 (R86). -/
theorem textError_eq_nonAscii {t : List Byte} : textError t = some .nonAscii ↔ ∃ b ∈ t, 0x80 ≤ b.toNat := by
  have key : asciiText t = false ↔ ∃ b ∈ t, 0x80 ≤ b.toNat := by simp [asciiText]
  rw [← key]
  unfold textError
  by_cases h : asciiText t = false
  · simp [h]
  · rw [if_neg h]
    by_cases h2 : inAlphabet (upperText t) = false
    · simp [h2, h]
    · simp [h2, h]

/-- The bytes of a state's text, one by one. -/
theorem forall_text {s : State} {p : Byte → Prop} : (∀ b ∈ s.text, p b) ↔ ∀ j < s.inLen.toNat, p (s.inByte j) := by
  simp [State.text, State.inBytes]

theorem exists_text {s : State} {p : Byte → Prop} : (∃ b ∈ s.text, p b) ↔ ∃ j < s.inLen.toNat, p (s.inByte j) := by
  simp [State.text, State.inBytes]

end Sys2Proof.Machine
end

