-- ==== Sys2Proof/Laws/PerInstr.lean ====
section
/-! SUPPORT. A statement about every command as syntax, one lemma per constructor: its encoding is a legal word (R75, R77). -/

namespace Sys2Proof.Laws.EncodedWordIsLegal

/-- The encoding of the command is a legal word, and it is the OP value with KSRC at bit 8. -/
def Statement (i : Instr) : Prop :=
  legal (encode i) = true ∧ (encode i).toNat = i.op.toNat + 256 * i.ksrcBit.toNat

theorem validate : Statement .validate := by unfold Statement; decide
theorem decode : Statement .decode := by unfold Statement; decide
theorem tstep : Statement .tstep := by unfold Statement; decide
theorem hmac (key : KeySource) : Statement (.hmac key) := by unfold Statement; cases key <;> decide
theorem trunc : Statement .trunc := by unfold Statement; decide
theorem modc : Statement .modc := by unfold Statement; decide
theorem code (key : KeySource) : Statement (.code key) := by unfold Statement; cases key <;> decide
theorem totp (key : KeySource) : Statement (.totp key) := by unfold Statement; cases key <;> decide

end Sys2Proof.Laws.EncodedWordIsLegal
end

