-- ==== Sys2Proof/Laws/Sha1.lean ====
section
/-! SUPPORT. Lengths and byte order of the hash: the padded message, the digest's bytes, the prepared key. -/

namespace Sys2Proof.Machine

@[simp] theorem bytesOfWord_length (w : Word) : (bytesOfWord w).length = 4 := rfl

@[simp] theorem bigEndian64_length (x : DWord) : (bigEndian64 x).length = 8 := rfl

@[simp] theorem Chain.bytes_length (h : Chain) : h.bytes.length = 20 := rfl

@[simp] theorem sha1_length (m : List Byte) : (sha1 m).length = 20 := rfl

@[simp] theorem hmacSha1_length (k m : List Byte) : (hmacSha1 k m).length = 20 := rfl

theorem zeroPadding_lt (n : Nat) : zeroPadding n < 64 := Nat.mod_lt _ (by omega)

/-- Byte lane `i` of a packed word is the byte that was packed there (R52). -/
theorem laneByte_packLanes (b0 b1 b2 b3 : Byte) :
    laneByte (packLanes b0 b1 b2 b3) 0 = b0 ∧ laneByte (packLanes b0 b1 b2 b3) 1 = b1 ∧
    laneByte (packLanes b0 b1 b2 b3) 2 = b2 ∧ laneByte (packLanes b0 b1 b2 b3) 3 = b3 := by
  refine ⟨?_, ?_, ?_, ?_⟩ <;>
  · ext j hj
    simp only [laneByte, packLanes, BitVec.getElem_extractLsb', BitVec.getLsbD_append]
    simp
    rcases j with _ | _ | _ | _ | _ | _ | _ | _ | j <;> first | rfl | omega

/-- A word is its four lanes packed again (R52). -/
theorem packLanes_laneByte (w : Word) :
    packLanes (laneByte w 0) (laneByte w 1) (laneByte w 2) (laneByte w 3) = w := by
  apply BitVec.eq_of_getLsbD_eq
  intro j hj
  simp only [laneByte, packLanes, BitVec.getLsbD_append, BitVec.getLsbD_extractLsb']
  interval_cases j <;> simp

/-- The digest words built from 20 bytes hold those bytes in order (R36, R110). -/
theorem Digest.bytes_ofBytes (l : List Byte) (h : l.length = 20) : (Digest.ofBytes l).bytes = l := by
  match l, h with
  | [b0, b1, b2, b3, b4, b5, b6, b7, b8, b9, b10, b11, b12, b13, b14, b15, b16, b17, b18, b19], _ =>
    have p := laneByte_packLanes
    have e : (Digest.ofBytes [b0, b1, b2, b3, b4, b5, b6, b7, b8, b9, b10, b11, b12, b13, b14, b15, b16, b17, b18, b19]).bytes =
      [laneByte (packLanes b0 b1 b2 b3) 0, laneByte (packLanes b0 b1 b2 b3) 1, laneByte (packLanes b0 b1 b2 b3) 2,
       laneByte (packLanes b0 b1 b2 b3) 3, laneByte (packLanes b4 b5 b6 b7) 0, laneByte (packLanes b4 b5 b6 b7) 1,
       laneByte (packLanes b4 b5 b6 b7) 2, laneByte (packLanes b4 b5 b6 b7) 3, laneByte (packLanes b8 b9 b10 b11) 0,
       laneByte (packLanes b8 b9 b10 b11) 1, laneByte (packLanes b8 b9 b10 b11) 2, laneByte (packLanes b8 b9 b10 b11) 3,
       laneByte (packLanes b12 b13 b14 b15) 0, laneByte (packLanes b12 b13 b14 b15) 1,
       laneByte (packLanes b12 b13 b14 b15) 2, laneByte (packLanes b12 b13 b14 b15) 3,
       laneByte (packLanes b16 b17 b18 b19) 0, laneByte (packLanes b16 b17 b18 b19) 1,
       laneByte (packLanes b16 b17 b18 b19) 2, laneByte (packLanes b16 b17 b18 b19) 3] := rfl
    rw [e]
    simp only [(p _ _ _ _).1, (p _ _ _ _).2.1, (p _ _ _ _).2.2.1, (p _ _ _ _).2.2.2]

/-- The prepared key is the block of R142. -/
theorem prepareKey_eq (k : List Byte) : prepareKey k = hmacKeyBlock k := by
  by_cases h : k.length ≤ 64
  · simp [prepareKey, hmacKeyBlock, h, Nat.not_lt.2 h]
  · simp [prepareKey, hmacKeyBlock, h, Nat.lt_of_not_le h]

/-- Each byte of the message is a quotient of the step index (R107). -/
theorem hmacMessage_eq (c : DWord) :
    hmacMessage c = (List.range 8).map fun j => BitVec.ofNat 8 (c.toNat / 256 ^ (7 - j)) := by
  have e : ∀ n, c.extractLsb' n 8 = BitVec.ofNat 8 (c.toNat / 2 ^ n) := fun n =>
    BitVec.eq_of_toNat_eq (by simp [Nat.shiftRight_eq_div_pow])
  simp [hmacMessage, bigEndian64, List.range_succ, e]

/-- What a command's key and a step index hash to, in the words of R143. -/
theorem hmacSha1_keyBytes (s : State) (k : KeySource) (c : DWord) :
    hmacSha1 (s.keyBytes k) (hmacMessage c) = s.hmacOver k c := by
  have hk : s.keyBytes k = (List.range (s.keyLen k)).map (s.keyByte k) := by cases k <;> rfl
  rw [hk, hmacMessage_eq, hmacSha1, prepareKey_eq]
  rfl

end Sys2Proof.Machine
end

