-- ==== Sys2Proof/Tests/Slice0.lean ====
section
/-! SUPPORT. The model's own tests: words and results from spec/95_test_vectors.md and the worked examples of the rules, the
refusals of the well-formedness checks, and for every statement with hypotheses a state that meets them. -/

namespace Sys2Proof.Tests.Slice0

open Sys2Proof Sys2Proof.Machine

-- The kernel checks below run one after another: many at once take a stack each.
set_option Elab.async false

/-! ### Helpers -/

/-- The state a step or a command leads to. -/
def next? (o : Host.Outcome State Fault Refusal) : Option State :=
  match o with
  | .next s => some s
  | .fault _ => none
  | .refused _ => none

/-- One field of the state a command leads to. -/
def get {α : Type} (o : Host.Outcome State Fault Refusal) (f : State → α) : Option α := (next? o).map f

/-- The reset state with a text in IN_BUF, IN_LEN and a clock premise. -/
def withText (l : List Byte) (r : ClockReading) : State :=
  { State.reset with mem := Memory.putBytes [] 0x100 l, inLen := BitVec.ofNat 16 l.length, clkNext := some r }

/-- "12345678901234567890", the key of RFC 6238. -/
def rfcKey : List Byte :=
  [0x31#8, 0x32#8, 0x33#8, 0x34#8, 0x35#8, 0x36#8, 0x37#8, 0x38#8, 0x39#8, 0x30#8,
   0x31#8, 0x32#8, 0x33#8, 0x34#8, 0x35#8, 0x36#8, 0x37#8, 0x38#8, 0x39#8, 0x30#8]

/-- "mzXw6" (R89's example). -/
def mixedText : List Byte := [0x6D#8, 0x7A#8, 0x58#8, 0x77#8, 0x36#8]

/-- The reset state with the RFC key in IN_BUF and the clock at 59. -/
def keyed : State := withText rfcKey (.secs 59#64)

/-- A BUSY state in which `w` is accepted, with `delay` host accesses to come and `l` pending. -/
def busyWith (w : Word) (delay : Nat) (l : List Action) : State :=
  { State.reset with seq := .busy, curCmd := w, delay := delay, actions := l }

/-- A FAULTED state (R155). -/
def faulted : State := { State.reset with seq := .faulted, done := true, err := true, ecode := .clockBeforeEpoch }

/-! ### Well-formedness: each check refuses an ill-formed term (R75's own examples) -/

theorem test_wellFormed_refuses_unlisted_op : (fieldsOf 0x00000003#32).wellFormed = false := by decide
theorem test_wellFormed_refuses_reserved_bit : (fieldsOf 0x80000002#32).wellFormed = false := by decide
theorem test_wellFormed_refuses_ksrc_on_validate : (fieldsOf 0x00000101#32).wellFormed = false := by decide
theorem test_wellFormed_takes_totp_key_out : (fieldsOf 0x00000115#32).wellFormed = true := by decide

/-! ### Decoding: one word per constructor and key source, bits 31 to 0 from R71 and R72 -/

theorem test_decode_validate : Sys2Proof.decode 0b00000000000000000000000_0_00000001#32 = .instr .validate := by decide
theorem test_decode_decode : Sys2Proof.decode 0b00000000000000000000000_0_00000010#32 = .instr .decode := by decide
theorem test_decode_tstep : Sys2Proof.decode 0b00000000000000000000000_0_00010000#32 = .instr .tstep := by decide
theorem test_decode_hmac_in : Sys2Proof.decode 0b00000000000000000000000_0_00010001#32 = .instr (.hmac .inBuf) := by decide
theorem test_decode_hmac_out : Sys2Proof.decode 0b00000000000000000000000_1_00010001#32 = .instr (.hmac .outBuf) := by decide
theorem test_decode_trunc : Sys2Proof.decode 0b00000000000000000000000_0_00010010#32 = .instr .trunc := by decide
theorem test_decode_modc : Sys2Proof.decode 0b00000000000000000000000_0_00010011#32 = .instr .modc := by decide
theorem test_decode_code_in : Sys2Proof.decode 0b00000000000000000000000_0_00010100#32 = .instr (.code .inBuf) := by decide
theorem test_decode_code_out : Sys2Proof.decode 0b00000000000000000000000_1_00010100#32 = .instr (.code .outBuf) := by decide
theorem test_decode_totp_in : Sys2Proof.decode 0b00000000000000000000000_0_00010101#32 = .instr (.totp .inBuf) := by decide
theorem test_decode_totp_out : Sys2Proof.decode 0b00000000000000000000000_1_00010101#32 = .instr (.totp .outBuf) := by decide
/-- 95_test_vectors.md 2.9: a reserved OP beside TOTP, KSRC on TRUNC, a reserved bit beside KSRC. -/
theorem test_decode_rejects : Sys2Proof.decode 0x00000016#32 = .reject .reservedOp ∧
    Sys2Proof.decode 0x00000112#32 = .reject .keySourceNotAllowed ∧
    Sys2Proof.decode 0x00000215#32 = .reject .reservedField := by decide

/-! ### Results -/

/-- R89's example: "mzXw6" gives "MZXW6". -/
theorem test_validate_upper_cases :
    get (exec .validate (withText mixedText (.secs 0#64))) (fun t => (t.outBytes 5, t.outLen, t.kvalid))
      = some ([0x4D#8, 0x5A#8, 0x58#8, 0x57#8, 0x36#8], 5#16, false) := by decide +kernel
/-- 2.1: "0é" is NON_ASCII, wherever the byte stands; STATUS = 0x16. -/
theorem test_validate_non_ascii_first :
    get (exec .validate (withText [0x30#8, 0xC3#8, 0xA9#8] (.secs 0#64))) State.statusWord = some 0x00000016#32 := by
  decide +kernel
/-- 2.2: "MZXW6YTB" gives 66 6f 6f 62 61, the last complete byte included; STATUS = 0x202. -/
theorem test_decode_emits_last_byte :
    get (exec .decode (withText [0x4D#8, 0x5A#8, 0x58#8, 0x57#8, 0x36#8, 0x59#8, 0x54#8, 0x42#8] (.secs 0#64)))
      (fun t => (t.outBytes 5, t.outLen, t.statusWord))
      = some ([0x66#8, 0x6F#8, 0x6F#8, 0x62#8, 0x61#8], 5#16, 0x00000202#32) := by decide +kernel
/-- 2.2: "a=" is INVALID_CHAR, a valid key is gone. -/
theorem test_decode_invalid_char :
    get (exec .decode { withText [0x61#8, 0x3D#8] (.secs 0#64) with kvalid := true, outLen := 5#16 })
      (fun t => (t.statusWord, t.outLen)) = some (0x00000026#32, 0#16) := by decide +kernel
/-- R101: t = 2^64 - 1 and s = 30. -/
theorem test_tstep_top_of_clock :
    get (exec .tstep (withText [] (.secs 0xFFFFFFFFFFFFFFFF#64))) (fun t => (t.counter, t.remain, t.time))
      = some (614891469123651720#64, 15#8, 0xFFFFFFFFFFFFFFFF#64) := by decide +kernel
/-- 2.3: before the epoch, STATUS = 0xFE and SEQ = FAULTED. -/
theorem test_tstep_before_epoch :
    get (exec .tstep (withText [] .beforeEpoch)) (fun t => (t.statusWord, t.seq, t.counter))
      = some (0x000000FE#32, .faulted, 0#64) := by decide +kernel
/-- R108's example and R110: DIGEST0 reads 0x198AA475. -/
theorem test_hmac_rfc_key :
    get (exec (.hmac .inBuf) { keyed with counter := 1#64 }) (fun t => (t.digest.w0, t.digest.w4))
      = some (0x198AA475#32, 0xAB332D7A#32) := by decide +kernel
/-- 2.4: 65 bytes of aa are hashed first. -/
theorem test_hmac_long_key :
    get (exec (.hmac .inBuf) { withText (List.replicate 65 0xAA#8) (.secs 0#64) with counter := 1#64 })
      (fun t => t.digest.bytes.take 4) = some [0x12#8, 0x9B#8, 0xD7#8, 0x92#8] := by decide +kernel
/-- R112's example: offset 10, TRUNC = 0x50EF7F19. -/
theorem test_trunc_rfc4226 :
    get (exec .trunc { State.reset with
      digest := ⟨0x6998861F#32, 0x16CA020E#32, 0xEF508561#32, 0x8EDA197F#32, 0x5A555B94#32⟩ }) State.trunc
      = some 0x50EF7F19#31 := by decide +kernel
/-- 2.5: offset 15, the top bit of the first byte is masked and byte 19 is outside the window. -/
theorem test_trunc_last_window :
    get (exec .trunc { State.reset with
      digest := ⟨0xAAAAAAAA#32, 0xAAAAAAAA#32, 0xAAAAAAAA#32, 0xFFAAAAAA#32, 0x0F030201#32⟩ }) State.trunc
      = some 0x7F010203#31 := by decide +kernel
/-- R117: 0x7FFFFFFF with 9 digits. -/
theorem test_modc_nine_digits :
    get (exec .modc { State.reset with trunc := 0x7FFFFFFF#31, digits := 9#8 }) State.code = some 147483647#32 := by
  decide +kernel
/-- 2.6: 10 digits is BAD_DIGITS, STATUS = 0x66. -/
theorem test_modc_ten_digits :
    get (exec .modc { State.reset with digits := 10#8 }) State.statusWord = some 0x00000066#32 := by decide +kernel
/-- 2.7: COUNTER = 1 and DIGITS = 8. -/
theorem test_code_rfc_key :
    get (exec (.code .inBuf) { keyed with counter := 1#64, digits := 8#8 }) (fun t => (t.trunc, t.code))
      = some (1094287082#31, 94287082#32) := by decide +kernel
/-- 2.9: `key=out` without a valid key is NO_KEY, STATUS = 0x76. -/
theorem test_code_no_key :
    get (exec (.code .outBuf) State.reset) State.statusWord = some 0x00000076#32 := by decide +kernel
/-- R124's example, the known-answer test S10. -/
theorem test_totp_known_answer :
    get (exec (.totp .inBuf) { keyed with digits := 8#8 }) (fun t => (t.time, t.counter, t.remain, t.code))
      = some (59#64, 1#64, 1#8, 94287082#32) := by decide +kernel
/-- 2.9: BAD_DIGITS before the clock is sampled: not FAULTED, and the premise on the clock is still there. -/
theorem test_totp_digits_before_clock :
    get (exec (.totp .inBuf) { withText rfcKey .beforeEpoch with digits := 10#8 }) (fun t => (t.statusWord, t.clkNext))
      = some (0x00000066#32, some .beforeEpoch) := by decide +kernel

/-! ### The host's side -/

/-- 2.10: a write of 0xFFFFFFFF to TRUNC reads back as 0x7FFFFFFF. -/
theorem test_trunc_bit31_is_hardwired :
    (memRead 0x034#10 (memWrite 0x034#10 0xFFFFFFFF#32 State.reset).after).data = 0x7FFFFFFF#32 := by decide +kernel
/-- 2.10: "ABCD" in little-endian lanes. -/
theorem test_in_buf_lanes :
    (memWrite 0x100#10 0x44434241#32 State.reset).after.inBytes 4 = [0x41#8, 0x42#8, 0x43#8, 0x44#8] := by
  decide +kernel
/-- 2.10: a misaligned read gives 0 with the error response, and its step is the fault of that access. -/
theorem test_misaligned_read :
    (memRead 0x002#10 State.reset).status = .busError ∧ (memRead 0x002#10 State.reset).data = 0#32 ∧
      next? (step { State.reset with actions := [.read 0x002#10] }) = none := by decide +kernel
/-- 2.9: an illegal word completes with ILLEGAL_CMD, STATUS = 0x36. -/
theorem test_illegal_word_completes :
    get (step (State.reset.withFetchWord 32 0x315)) State.statusWord = some 0x00000036#32 := by decide +kernel
/-- A table row's word is run by the first step after reset. -/
theorem test_first_step_runs_modc :
    get (step (State.reset.withFetchWord 32 0x13)) (fun t => (t.seq, t.statusWord)) = some (.idle, 0x00000002#32) := by
  decide +kernel

/-! ### For every statement with hypotheses, a state that meets them -/

theorem wit_EncodingAndDecodingAgree :
    (Instr.totp .outBuf).wellFormed = true ∧ Sys2Proof.decode 0x115#32 = .instr (.totp .outBuf) := by decide
theorem wit_LegalWordsDecodeAndOthersAreIllegal :
    State.reset.seq = .idle ∧ ∀ i, Sys2Proof.decode (busyWith 0x101#32 0 []).curCmd ≠ .instr i := by
  have h : Sys2Proof.decode 0x101#32 = .reject .keySourceNotAllowed := by decide
  refine ⟨rfl, fun i hi => ?_⟩
  rw [show (busyWith 0x101#32 0 []).curCmd = 0x101#32 from rfl, h] at hi
  cases hi
theorem wit_StepRunsTheDecodedCommand_no_access_due :
    (busyWith 0x13#32 0 [.wait]).seq = .busy ∧ Sys2Proof.decode (busyWith 0x13#32 0 [.wait]).curCmd = .instr .modc ∧
      ((busyWith 0x13#32 0 [.wait]).delay = 0 ∨ (busyWith 0x13#32 0 [.wait]).actions = []) ∧
      ∀ rest, (busyWith 0x13#32 0 [.wait]).actions ≠ .rst :: rest := by
  refine ⟨rfl, by decide, .inl rfl, ?_⟩
  simp [busyWith]
theorem wit_StepRunsTheDecodedCommand_nothing_pending :
    (busyWith 0x13#32 7 []).seq = .busy ∧ Sys2Proof.decode (busyWith 0x13#32 7 []).curCmd = .instr .modc ∧
      ((busyWith 0x13#32 7 []).delay = 0 ∨ (busyWith 0x13#32 7 []).actions = []) ∧
      ∀ rest, (busyWith 0x13#32 7 []).actions ≠ .rst :: rest := by
  refine ⟨rfl, by decide, .inr rfl, ?_⟩
  simp [busyWith]
theorem wit_PresentedTableWordRunsNext : decodeTableWord 32 0x114 = some (.code .outBuf) := by decide
theorem wit_CommandWriteIsAcceptedUnchecked :
    ({ State.reset with latNext := some 3 } : State).seq = .idle ∧
      ({ State.reset with latNext := some 3 } : State).latNext = some 3 := by decide
theorem wit_CompletionIsGuaranteed :
    (busyWith 0x13#32 2 [.wait, .write 0x014#10 8#32]).seq = .busy ∧
      ∀ a ∈ (busyWith 0x13#32 2 [.wait, .write 0x014#10 8#32]).actions, a.misaligned = false := by decide
/-- An acceptance with a LATENCY of 0 and nothing pending, and one with a LATENCY of 3 and three accesses of the three kinds. -/
theorem wit_CompletionIsGuaranteed_latency :
    State.reset.seq = .idle ∧ 0 ≤ ({ State.reset with latNext := some 0 } : State).actions.length ∧
      3 ≤ [Action.write 0x3FC#10 8#32, .read 0x000#10, .wait].length ∧
      ∀ a ∈ [Action.write 0x3FC#10 8#32, .read 0x000#10, .wait], a.alignedAccess = true := by decide
theorem wit_QuietBlockStaysAsItIs : State.reset.seq ≠ .busy ∧ State.reset.actions = [] := by decide
theorem wit_NothingChangesUnderABusyCommand :
    (busyWith 0x13#32 1 [.wait]).seq = .busy ∧ (busyWith 0x13#32 1 [.wait]).delay ≠ 0 ∧
      (busyWith 0x13#32 1 [.wait]).actions ≠ [] ∧ (∀ rest, (busyWith 0x13#32 1 [.wait]).actions ≠ .rst :: rest) ∧
      ∃ t, step (busyWith 0x13#32 1 [.wait]) = .next t := by
  refine ⟨rfl, by decide, by decide, by simp [busyWith], _, rfl⟩
theorem wit_PendingActionsDoWhatTheyName :
    (∀ a ∈ [Action.write 0x014#10 8#32, .read 0x008#10, .clk .beforeEpoch, .latency 2, .wait],
      ¬ (({ State.reset with actions := [a] } : State).seq = .busy ∧
          ({ State.reset with actions := [a] } : State).delay = 0)) ∧
      (0x014#10).toNat % 4 = 0 ∧ (0x3FC#10).toNat % 4 = 0 ∧
      ¬ ((busyWith 0x13#32 1 [.wait]).seq = .busy ∧ (busyWith 0x13#32 1 [.wait]).delay = 0) := by decide
theorem wit_LoadInPutsTheTextInPlace : faulted.seq ≠ .busy ∧ (List.replicate 256 0x41#8).length ≤ 256 :=
  ⟨by decide, by decide +kernel⟩
/-- `RUN MODC` with a LATENCY of 2: accepted, polled twice, completed, polled once more. -/
theorem wit_RunOfACommandIsItsExecution :
    State.reset.seq = .idle ∧
      get (Host.Core.run Sys2Proof.core 5 { State.reset with latNext := some 2, actions := runCmd .modc })
        (fun t => (t.actions.length, t.seq, t.reads)) = some (0, .idle, [2#32, 1#32, 1#32]) := by decide
theorem wit_EveryStepKeepsTheInvariant : State.reset.inv ∧ step State.reset = .next State.reset := ⟨by decide, rfl⟩
theorem wit_EveryStepKeepsTheInvariant_written : (withText rfcKey (.secs 59#64)).inv := by decide +kernel
theorem wit_ResetRegistersReadAsListed :
    (0x3FC#10).toNat % 4 = 0 ∧ ¬ (0x100 ≤ (0x3FC#10).toNat ∧ (0x3FC#10).toNat < 0x300) ∧
      (0x0FC#10).toNat % 4 = 0 ∧ ¬ (0x100 ≤ (0x0FC#10).toNat ∧ (0x0FC#10).toNat < 0x300) := by decide
theorem wit_ResetGoesFirstFromEveryState :
    (busyWith 0x13#32 0 [.rst, .wait]).actions = .rst :: [.wait] ∧
      ({ faulted with actions := [.rst] } : State).actions = .rst :: [] := by decide
theorem wit_ClockBeforeEpochFaults :
    (withText rfcKey .beforeEpoch).clockSample = .beforeEpoch ∧ 1 ≤ (withText rfcKey .beforeEpoch).stepSize.toNat ∧
      (withText rfcKey .beforeEpoch).stepSize.toNat ≤ 255 ∧ (withText rfcKey .beforeEpoch).keyReady .inBuf ∧
      1 ≤ (withText rfcKey .beforeEpoch).digits.toNat ∧ (withText rfcKey .beforeEpoch).digits.toNat ≤ 9 := by
  refine ⟨by decide, by decide, by decide, ?_, by decide, by decide⟩
  show (20#16).toNat ≤ 256
  decide
theorem wit_OnlyTstepAndTotpReadTheClockOrFault_fault :
    ∃ t, exec .tstep (withText [] .beforeEpoch) = .next t ∧ t.seq = .faulted := ⟨_, rfl, by decide⟩
theorem wit_OnlyTstepAndTotpReadTheClockOrFault_other :
    ∃ t, exec .modc State.reset = .next t ∧ Instr.modc ≠ .tstep ∧ ∀ k, Instr.modc ≠ .totp k :=
  ⟨_, rfl, by decide, by simp⟩
theorem wit_OnlyResetLeavesFaulted : faulted.seq = .faulted ∧ step faulted = .next faulted := ⟨rfl, rfl⟩
theorem wit_MisalignedAccessIsABusError :
    (0x3FF#10).toNat % 4 ≠ 0 ∧ (0x001#10).toNat % 4 ≠ 0 ∧ ¬ (State.reset.seq = .busy ∧ State.reset.delay = 0) := by
  decide
theorem wit_OverrunIsSetByDroppedWritesOnly :
    (busyWith 0x13#32 1 []).seq = .busy ∧ (0x004#10).toNat % 4 = 0 ∧ (0x004#10 : Offset) ≠ 0x008#10 ∧
      (∃ t, exec .trunc State.reset = .next t) ∧
      get (step { State.reset with ovr := true, actions := [.write 0x008#10 0x100#32] }) State.ovr = some false := by
  refine ⟨rfl, by decide, by decide, ⟨_, rfl⟩, by decide⟩
/-- A step that takes OVR from 0 to 1. -/
theorem wit_OverrunIsSetByDroppedWritesOnly_set :
    get (step (busyWith 0x13#32 1 [.write 0x00C#10 5#32])) (fun t => (t.ovr, t.inLen)) = some (true, 0#16) := by decide
/-- Buffer words at both ends of the two buffers. -/
theorem wit_RegistersReadAsStored_buffers :
    State.reset.seq ≠ .busy ∧ ∀ off ∈ [0x100#10, 0x1FC#10, 0x200#10, 0x2FC#10],
      (off : Offset).toNat % 4 = 0 ∧ 0x100 ≤ off.toNat ∧ off.toNat < 0x300 := by decide
theorem wit_ReadsWhileBusy_results :
    (busyWith 0x13#32 1 []).seq = .busy ∧ ∀ off ∈ [0x010#10, 0x020#10, 0x038#10, 0x040#10, 0x050#10, 0x200#10, 0x2FC#10],
      (off : Offset).toNat % 4 = 0 ∧ (off.toNat = 0x010 ∨ (0x020 ≤ off.toNat ∧ off.toNat ≤ 0x038) ∨
        (0x040 ≤ off.toNat ∧ off.toNat ≤ 0x050) ∨ (0x200 ≤ off.toNat ∧ off.toNat < 0x300)) := by decide
theorem wit_ReadsWhileBusy_stored :
    ∀ off ∈ [0x000#10, 0x008#10, 0x00C#10, 0x014#10, 0x018#10, 0x01C#10, 0x100#10, 0x1FC#10],
      (off : Offset).toNat % 4 = 0 ∧ ¬ (off.toNat = 0x010 ∨ (0x020 ≤ off.toNat ∧ off.toNat ≤ 0x038) ∨
        (0x040 ≤ off.toNat ∧ off.toNat ≤ 0x050) ∨ (0x200 ≤ off.toNat ∧ off.toNat < 0x300)) := by decide
theorem wit_blocks_that_are_not_busy : State.reset.seq ≠ .busy ∧ faulted.seq ≠ .busy := by decide
theorem wit_HostWritesReadBack :
    State.reset.seq ≠ .busy ∧ ∀ off ∈ [0x018#10, 0x024#10, 0x040#10, 0x050#10, 0x100#10, 0x1FC#10],
      (off : Offset).toNat % 4 = 0 ∧ ((0x018 ≤ off.toNat ∧ off.toNat ≤ 0x024) ∨
        (0x040 ≤ off.toNat ∧ off.toNat ≤ 0x050) ∨ (0x100 ≤ off.toNat ∧ off.toNat < 0x200)) := by decide
theorem wit_HostWriteToInBufStoresFourBytes :
    State.reset.seq ≠ .busy ∧ ∀ off ∈ [0x100#10, 0x1FC#10],
      (off : Offset).toNat % 4 = 0 ∧ 0x100 ≤ off.toNat ∧ off.toNat < 0x200 := by decide
theorem wit_ReadOnlyAndReservedIgnoreWrites :
    State.reset.seq ≠ .busy ∧
    (∀ off ∈ [0x000#10, 0x038#10, 0x200#10, 0x2FC#10], (off : Offset).toNat % 4 = 0 ∧
      (off.toNat ∈ [0x000, 0x010, 0x028, 0x02C, 0x030, 0x038] ∨ (0x200 ≤ off.toNat ∧ off.toNat < 0x300))) ∧
    (∀ off ∈ [0x03C#10, 0x054#10, 0x0FC#10, 0x300#10, 0x3FC#10], (off : Offset).toNat % 4 = 0 ∧
      (off.toNat = 0x03C ∨ (0x054 ≤ off.toNat ∧ off.toNat < 0x100) ∨ 0x300 ≤ off.toNat)) := by decide
theorem wit_FirstFailingCheckIsReported :
    (∃ t, engineStep (busyWith 0x00000000#32 0 []) = .next t) ∧ (∃ t, exec .validate State.reset = .next t) ∧
      Sys2Proof.decode (busyWith 0x00000000#32 0 []).curCmd = .reject .reservedOp := by
  refine ⟨⟨_, rfl⟩, ⟨_, rfl⟩, by decide⟩
theorem wit_ErrorsChangeOnlyWhatIsListed :
    get (engineStep (busyWith 0x00000003#32 0 [])) State.ecode = some .illegalCmd ∧
      get (exec .validate { State.reset with inLen := 257#16 }) State.ecode = some .badLength ∧
      get (exec (.hmac .outBuf) State.reset) State.ecode = some .noKey ∧
      get (exec .tstep { State.reset with stepSize := 256#64 }) State.ecode = some .badStep ∧
      get (exec .modc { State.reset with digits := 0#8 }) State.ecode = some .badDigits ∧
      get (exec .decode (withText [0x80#8] (.secs 0#64))) State.ecode = some .nonAscii ∧
      get (exec .decode (withText [0x38#8] (.secs 0#64))) State.ecode = some .invalidChar ∧
      get (exec .tstep (withText [] .beforeEpoch)) State.ecode = some .clockBeforeEpoch := by decide +kernel
theorem wit_KeyValidFollowsItsCases :
    get (step { busyWith 0x02#32 0 [] with inLen := 0#16 }) State.kvalid = some true ∧
      (State.reset.kvalid = false ∧ ∃ t, exec (.totp .outBuf) State.reset = .next t) ∧
      get (step { State.reset with kvalid := true, actions := [.rst] }) State.kvalid = some false := by
  refine ⟨by decide, ⟨rfl, _, rfl⟩, by decide⟩
theorem wit_ValidateDeliversTheUpperCasedText :
    (withText mixedText (.secs 0#64)).inLen.toNat ≤ 256 ∧
      ∀ j < (withText mixedText (.secs 0#64)).inLen.toNat, base32Char ((withText mixedText (.secs 0#64)).inByte j) = true := by
  decide +kernel
theorem wit_DecodeDeliversTheBitStream_largest :
    (withText (List.replicate 256 0x37#8) (.secs 0#64)).inLen.toNat = 256 ∧
      ∀ j < 256, base32Char ((withText (List.replicate 256 0x37#8) (.secs 0#64)).inByte j) = true := by decide +kernel
theorem wit_TstepWritesTheTimeStep :
    1 ≤ keyed.stepSize.toNat ∧ keyed.stepSize.toNat ≤ 255 ∧ keyed.clockSample = .secs 59#64 := by decide
theorem wit_TstepWritesTheTimeStep_errors :
    ({ State.reset with stepSize := 0#64 } : State).stepSize.toNat = 0 ∧
      255 < ({ State.reset with stepSize := 256#64 } : State).stepSize.toNat ∧
      ({ State.reset with clkNext := some .beforeEpoch } : State).clockSample = .beforeEpoch ∧
      1 ≤ ({ State.reset with clkNext := some .beforeEpoch } : State).stepSize.toNat ∧
      ({ State.reset with clkNext := some .beforeEpoch } : State).stepSize.toNat ≤ 255 := by decide
/-- For the failing checks of HMAC, CODE and TOTP too. -/
theorem wit_HmacWritesTheDigest_errors :
    256 < ({ State.reset with inLen := 257#16 } : State).inLen.toNat ∧ State.reset.kvalid = false := by decide
theorem wit_HmacWritesTheDigest :
    ({ State.reset with inLen := 256#16 } : State).keyReady .inBuf ∧ ({ State.reset with kvalid := true } : State).keyReady .outBuf := by
  refine ⟨?_, rfl⟩
  show (256#16).toNat ≤ 256
  decide
theorem wit_ModcReducesByDigits :
    (1 ≤ (1#8).toNat ∧ (9#8).toNat ≤ 9) ∧ (({ State.reset with digits := 0#8 } : State).digits.toNat = 0) ∧
      10 ≤ ({ State.reset with digits := 10#8 } : State).digits.toNat ∧
      1 ≤ State.reset.digits.toNat ∧ State.reset.digits.toNat ≤ 9 := by decide
theorem wit_CodeRunsStepsOneToFour :
    keyed.keyReady .inBuf ∧ 1 ≤ keyed.digits.toNat ∧ keyed.digits.toNat ≤ 9 := by
  refine ⟨?_, by decide, by decide⟩
  show (20#16).toNat ≤ 256
  decide
theorem wit_TotpRunsTheWholeContract :
    keyed.keyReady .inBuf ∧ 1 ≤ keyed.stepSize.toNat ∧ keyed.stepSize.toNat ≤ 255 ∧ 1 ≤ keyed.digits.toNat ∧
      keyed.digits.toNat ≤ 9 ∧ keyed.clockSample = .secs 59#64 :=
  ⟨wit_CodeRunsStepsOneToFour.1, by decide, by decide, by decide, by decide, by decide⟩
/-- States with their key there that fail the check on DIGITS (CODE, TOTP); for a STEP_SIZE that fails and for a clock before the
epoch (TOTP) the states of `wit_TstepWritesTheTimeStep_errors` do, their key and digit count being those of reset. -/
theorem wit_CodeAndTotp_errors :
    ({ State.reset with digits := 0#8 } : State).digits.toNat = 0 ∧
      9 < ({ State.reset with digits := 10#8 } : State).digits.toNat ∧ State.reset.keyReady .inBuf ∧
      1 ≤ State.reset.digits.toNat ∧ State.reset.digits.toNat ≤ 9 ∧
      1 ≤ State.reset.stepSize.toNat ∧ State.reset.stepSize.toNat ≤ 255 := by
  refine ⟨by decide, by decide, ?_, by decide, by decide, by decide, by decide⟩
  show (0#16).toNat ≤ 256
  decide
theorem wit_CodeGeneratorCommandsKeepTheRest :
    Instr.tstep ≠ .validate ∧ Instr.tstep ≠ .decode ∧ ∃ t, exec .tstep keyed = .next t :=
  ⟨by decide, by decide, _, rfl⟩
theorem wit_TextCommandsKeepTheRest :
    (∃ t, exec .decode (withText mixedText (.secs 0#64)) = .next t) ∧
      (∃ t, exec .validate { State.reset with inLen := 257#16 } = .next t) ∧
      256 < ({ State.reset with inLen := 257#16 } : State).inLen.toNat :=
  ⟨⟨_, rfl⟩, ⟨_, rfl⟩, by decide⟩
theorem wit_CodeEqualsHmacThenTruncThenModc :
    ∃ s1 s2 s3 t, keyed.keyReady .inBuf ∧ exec (.hmac .inBuf) keyed = .next s1 ∧ exec .trunc s1 = .next s2 ∧
      exec .modc s2 = .next s3 ∧ exec (.code .inBuf) keyed = .next t ∧
      (1 ≤ keyed.digits.toNat ∧ keyed.digits.toNat ≤ 9) ∧
      ¬ (1 ≤ ({ keyed with digits := 0#8 } : State).digits.toNat ∧
         ({ keyed with digits := 0#8 } : State).digits.toNat ≤ 9) :=
  ⟨_, _, _, _, wit_CodeRunsStepsOneToFour.1, rfl, rfl, rfl, rfl, by decide, by decide⟩
theorem wit_TotpIsRepeatableWithinAStep :
    keyed.keyLen .inBuf = (withText rfcKey (.secs 30#64)).keyLen .inBuf ∧
      (∀ j < keyed.keyLen .inBuf, keyed.keyByte .inBuf j = (withText rfcKey (.secs 30#64)).keyByte .inBuf j) ∧
      keyed.stepSize = (withText rfcKey (.secs 30#64)).stepSize ∧
      keyed.digits = (withText rfcKey (.secs 30#64)).digits ∧ keyed.clockSample = .secs 59#64 ∧
      (withText rfcKey (.secs 30#64)).clockSample = .secs 30#64 ∧
      (59#64).toNat / keyed.stepSize.toNat = (30#64).toNat / keyed.stepSize.toNat ∧
      get (exec (.totp .inBuf) keyed) State.ecode = some .ok ∧
      get (exec (.totp .inBuf) (withText rfcKey (.secs 30#64))) State.ecode = some .ok := by
  refine ⟨rfl, fun j _ => rfl, by decide, by decide, by decide, by decide, by decide, by decide +kernel, by decide +kernel⟩
theorem wit_KeyOutCommandsReadNothingElse :
    get (exec (.hmac .outBuf) { State.reset with kvalid := true }) State.ecode = some .ok ∧
      get (exec (.code .outBuf) { State.reset with kvalid := true }) State.ecode = some .ok ∧
      get (exec (.code .outBuf) { State.reset with kvalid := true, inLen := 300#16, time := 5#64 }) State.ecode = some .ok := by
  decide +kernel
theorem wit_DecodingIgnoresCase :
    (withText [0x61#8] (.secs 0#64)).inLen = (withText [0x41#8] (.secs 0#64)).inLen ∧
      (∀ j < (withText [0x61#8] (.secs 0#64)).inLen.toNat,
        0x61 ≤ ((withText [0x61#8] (.secs 0#64)).inByte j).toNat ∧ ((withText [0x61#8] (.secs 0#64)).inByte j).toNat ≤ 0x7A ∧
        (withText [0x41#8] (.secs 0#64)).inByte j = (withText [0x61#8] (.secs 0#64)).inByte j - 0x20#8) ∧
      get (exec .decode (withText [0x61#8] (.secs 0#64))) State.ecode = some .ok := by decide +kernel
theorem wit_RunningRegisterGivesTheBitStream : inAlphabet [0x4D#8, 0x5A#8, 0x37#8] = true := by decide
/-- "foo" is "MZXW6" (2.2). -/
theorem wit_DecodeInvertsRfcEncoding :
    (withText [0x4D#8, 0x5A#8, 0x58#8, 0x57#8, 0x36#8] (.secs 0#64)).inLen.toNat ≤ 256 ∧
      (withText [0x4D#8, 0x5A#8, 0x58#8, 0x57#8, 0x36#8] (.secs 0#64)).inBytes 5 = rfcText [0x66#8, 0x6F#8, 0x6F#8] := by
  decide +kernel
theorem wit_RemainCountsDownWithinAStep :
    readsClock .tstep = true ∧ (withText [] (.secs 58#64)).clockSample = .secs 58#64 ∧
      get (exec .tstep (withText [] (.secs 58#64))) State.ecode = some .ok ∧
      (withText [] (.secs 59#64)).stepSize = (withText [] (.secs 58#64)).stepSize ∧
      (withText [] (.secs 59#64)).clockSample = .secs 59#64 ∧ (59#64).toNat = (58#64).toNat + 1 ∧
      (59#64).toNat % (withText [] (.secs 58#64)).stepSize.toNat ≠ 0 ∧
      get (exec .tstep (withText [] (.secs 59#64))) State.ecode = some .ok := by decide
theorem wit_CounterChangesOnlyAtStepBoundaries :
    readsClock .tstep = true ∧ (withText [] (.secs 59#64)).clockSample = .secs 59#64 ∧
      (withText [] (.secs 60#64)).clockSample = .secs 60#64 ∧
      (withText [] (.secs 59#64)).stepSize = (withText [] (.secs 60#64)).stepSize ∧
      get (exec .tstep (withText [] (.secs 59#64))) State.ecode = some .ok ∧
      get (exec .tstep (withText [] (.secs 60#64))) State.ecode = some .ok ∧ (59#64).toNat ≤ (60#64).toNat := by decide
theorem wit_RemainBecomesZeroOnlyByReset :
    get (step { State.reset with remain := 7#8, actions := [.rst] }) State.remain = some 0#8 := by decide
theorem wit_TimedCommandsTakeExactlyOneSample :
    (readsClock (.totp .inBuf) = true ∧ get (exec (.totp .inBuf) keyed) State.ecode = some .ok) ∧
      get (exec (.totp .inBuf) (withText rfcKey .beforeEpoch)) State.ecode = some .clockBeforeEpoch ∧
      get (exec (.totp .outBuf) keyed) State.ecode = some .noKey := by decide +kernel
theorem wit_PreparedKeyIsOneBlock :
    (List.replicate 64 0xAA#8).length ≤ 64 ∧ 64 < (List.replicate 65 0xAA#8).length := by decide
theorem wit_ScheduleFollowsItsRecurrence : (List.replicate 16 0x80000000#32).length = 16 := by decide

end Sys2Proof.Tests.Slice0
end

/-! ## What one step can make of the block

Every invariant and every "only by" statement is a case split over `step_effect`, `action_effect` and `exec_cases`. -/

namespace Sys2Proof.Machine

/-! ### A stored host write -/

/-- Everything a stored host write keeps (R21, R39): it reaches the RW registers and IN_BUF's cells only. -/
theorem storeSlot_frame (s : State) (off : Offset) (v : Word) : ∃ il dg st ct tr di m,
    s.storeSlot off v = { s with inLen := il, digits := dg, stepSize := st, counter := ct, trunc := tr, digest := di,
                                 mem := m } ∧
      (s.mem.wf → m.wf) := by
  rcases storeSlot_cases s off v with h | h | h | ⟨x, h⟩ | ⟨x, h⟩ | h | ⟨k, h⟩ | ⟨hbuf, h⟩ <;> rw [h]
  case inr.inr.inr.inr.inr.inr.inr =>
    obtain ⟨hlo, hhi⟩ := slotOf_eq_inBuf.1 hbuf
    exact ⟨_, _, _, _, _, _, _, rfl, fun hm => wf_putBytes _ hm hlo (by simp; omega)⟩
  all_goals exact ⟨_, _, _, _, _, _, _, rfl, id⟩

@[simp] theorem storeSlot_seq (s : State) (off : Offset) (v : Word) : (s.storeSlot off v).seq = s.seq := by
  obtain ⟨_, _, _, _, _, _, _, h, -⟩ := storeSlot_frame s off v
  rw [h]

@[simp] theorem storeSlot_ovr (s : State) (off : Offset) (v : Word) : (s.storeSlot off v).ovr = s.ovr := by
  obtain ⟨_, _, _, _, _, _, _, h, -⟩ := storeSlot_frame s off v
  rw [h]

@[simp] theorem storeSlot_kvalid (s : State) (off : Offset) (v : Word) : (s.storeSlot off v).kvalid = s.kvalid := by
  obtain ⟨_, _, _, _, _, _, _, h, -⟩ := storeSlot_frame s off v
  rw [h]

@[simp] theorem storeSlot_remain (s : State) (off : Offset) (v : Word) : (s.storeSlot off v).remain = s.remain := by
  obtain ⟨_, _, _, _, _, _, _, h, -⟩ := storeSlot_frame s off v
  rw [h]

/-! ### An action -/

/-- What an action other than `rst` makes of the block: it changes nothing of the block itself (a read, a poll, a premise, a
STATUS write with bit 8 = 0, a CMD write dropped in FAULTED), or it is one of the four kinds of host write that do. -/
inductive ActionEffect (s : State) : Action → State → Prop
  | outside (a : Action) (n : Nat) (l : List Action) (r : List Word) (d : Nat) (p : Option Nat)
      (c : Option ClockReading) :
      ActionEffect s a
        { s with draws := n, actions := l, reads := r, delay := d, latNext := p, clkNext := c }
  | clearsOvr (v : Word) (h : v.getLsbD 8 = true) : ActionEffect s (.write 0x008#10 v) s.spend.clearOvr
  | dropped (off : Offset) (v : Word) (hal : aligned off = true) (hoff : off ≠ 0x008#10) (hb : s.seq = .busy) :
      ActionEffect s (.write off v) s.spend.setOvr
  | accepted (w : Word) (hi : s.seq = .idle) : ActionEffect s (.write 0x004#10 w) (s.spend.accept w)
  | stored (off : Offset) (v : Word) (hst : off ≠ 0x008#10) (hcmd : off ≠ 0x004#10) (hb : s.seq ≠ .busy) :
      ActionEffect s (.write off v) (s.spend.storeSlot off v)

/-- A host write that completes has one of these effects (R66). -/
theorem hostWrite_effect {off : Offset} {v : Word} {s t : State} (h : hostWrite off v s = .next t) :
    ActionEffect s (.write off v) t := by
  obtain ⟨hal, ⟨rfl, rfl⟩ | ⟨hoff, hb, rfl⟩ | ⟨rfl, hi, rfl⟩ | ⟨rfl, -, rfl⟩ | ⟨hst, hcmd, hb, rfl⟩⟩ :=
    hostWrite_next h
  · by_cases hv : v.getLsbD 8 = true
    · rw [if_pos hv]; exact .clearsOvr v hv
    · rw [if_neg hv]; exact .outside ..
  · exact .dropped off v hal hoff hb
  · exact .accepted v hi
  · exact .outside ..
  · exact .stored off v hst hcmd hb

/-- Everything an action other than `rst` can do. -/
theorem action_effect {a : Action} {s t : State} (ha : a ≠ .rst) (h : perform a s = .next t) : ActionEffect s a t := by
  cases a with
  | write off v => exact hostWrite_effect h
  | read off => obtain ⟨-, v, n, rfl⟩ := hostRead_next h; exact .outside ..
  | wait =>
    rw [perform, hostWait_eq] at h
    cases h
    split <;> exact .outside ..
  | clk r => cases h; exact .outside ..
  | latency n => cases h; exact .outside ..
  | rst => exact absurd rfl ha

/-! ### A step -/

/-- What a step that answers next makes of the state: reset, the completion of a legal or an illegal command word, an action of
the host or the environment, or nothing (R60, R162, R165, R176). -/
inductive StepEffect (s : State) : State → Prop
  | reset (rest : List Action) (h : s.actions = .rst :: rest) : StepEffect s (s.withActions rest).applyReset
  | completed (i : Instr) (t : State) (hb : s.seq = .busy) (hd : decode s.curCmd = .instr i)
      (h : exec i s = .next t) : StepEffect s t
  | illegal (hb : s.seq = .busy) (hd : ∀ i, decode s.curCmd ≠ .instr i) : StepEffect s (s.finish .idle .illegalCmd)
  | acted (a : Action) (rest : List Action) (t : State) (h : s.actions = a :: rest)
      (he : ActionEffect (s.withActions rest) a t) : StepEffect s t
  | quiet : StepEffect s s

/-- Everything a step that answers next can do. -/
theorem step_effect {s t : State} (h : step s = .next t) : StepEffect s t := by
  rcases step_cases s with ⟨rest, ha, hs⟩ | ⟨hb, -, -, hs⟩ | ⟨a, rest, ha, hr, -, hs⟩ | ⟨-, -, hs⟩ <;> rw [hs] at h
  · cases h; exact .reset rest ha
  · rcases engineStep_cases s with ⟨i, hd, he⟩ | ⟨r, hr, he⟩ <;> rw [he] at h
    · exact .completed i t hb hd h
    · cases h; exact .illegal hb (by simp [hr])
  · exact .acted a rest t ha (action_effect hr h)
  · cases h; exact .quiet

/-! ### The commands over a text, and the checks of a command -/

theorem readsText_iff {i : Instr} : readsText i = true ↔ i = .validate ∨ i = .decode := by
  cases i <;> simp [readsText]

/-- VALIDATE and DECODE have check 2 only (R147). -/
theorem checkError_of_readsText {i : Instr} (s : State) (hi : readsText i = true) : checkError i s = s.lengthError := by
  cases i with
  | validate => rfl
  | decode => rfl
  | _ => cases hi

/-- What a VALIDATE or DECODE that succeeds delivers (R90, R94): no more bytes than the text has, and for DECODE five bits a
symbol. -/
theorem succeeds_text {i : Instr} {s u : State} (hi : readsText i = true) (h : Succeeds i s u) :
    ∃ l, u = s.deliverOutput l (decide (i = .decode)) ∧ l.length ≤ s.inLen.toNat ∧
      (i = .decode → l.length = 5 * s.inLen.toNat / 8) := by
  cases i with
  | validate =>
    obtain ⟨-, rfl⟩ := h
    exact ⟨_, rfl, by simp [text_length], by simp⟩
  | decode =>
    obtain ⟨ht, rfl⟩ := h
    have hab : inAlphabet (upperText s.text) = true := by
      rw [inAlphabet_upperText]; exact List.all_eq_true.2 (textError_eq_none.1 ht)
    have hlen : (decodedBytes (upperText s.text)).length = 5 * s.inLen.toNat / 8 := by
      rw [decodedBytes_length hab, upperText_length, text_length]
    exact ⟨_, rfl, by omega, fun _ => hlen⟩
  | _ => cases hi

/-- A command over no text keeps the cells, OUT_LEN and KVALID, its key (R42, R109). -/
theorem succeeds_keepsKey {i : Instr} {s u : State} (hi : readsText i = false) (h : Succeeds i s u) :
    u.mem = s.mem ∧ u.outLen = s.outLen ∧ u.kvalid = s.kvalid := by
  cases i with
  | validate => cases hi
  | decode => cases hi
  | tstep => obtain ⟨c, -, rfl⟩ := h; simp
  | totp k => obtain ⟨c, -, rfl⟩ := h; simp
  | _ => cases h; simp

/-- A command that succeeds leaves CODE as it was, or it reads DIGITS and CODE is reduced by them (R117). -/
theorem succeeds_code {i : Instr} {s u : State} (h : Succeeds i s u) :
    u.code = s.code ∨ readsDigits i = true ∧ ∃ v, u.code = decimalCode v s.digits := by
  cases i with
  | validate => obtain ⟨-, rfl⟩ := h; simp
  | decode => obtain ⟨-, rfl⟩ := h; simp
  | tstep => obtain ⟨c, -, rfl⟩ := h; simp
  | hmac k => cases h; simp
  | trunc => cases h; simp
  | modc => cases h; exact .inr ⟨rfl, _, deriveCode_code _⟩
  | code k => cases h; exact .inr ⟨rfl, _, deriveCode_code _⟩
  | totp k => obtain ⟨c, -, rfl⟩ := h; exact .inr ⟨rfl, _, deriveCode_code _⟩

/-- A command that reads DIGITS and whose checks pass has 1 to 9 digits (R29). -/
theorem digits_of_checkError_none {i : Instr} {s : State} (hi : readsDigits i = true) (h : checkError i s = none) :
    1 ≤ s.digits.toNat ∧ s.digits.toNat ≤ 9 := by
  rw [← digitsError_eq_none]
  cases i with
  | modc => exact h
  | code k => exact (Option.or_eq_none_iff.1 h).2
  | totp k => exact (Option.or_eq_none_iff.1 (Option.or_eq_none_iff.1 h).2).2
  | _ => cases hi

/-- A command that reads the clock and whose checks pass has a step size of 1 to 255 (R30). -/
theorem stepSize_of_checkError_none {i : Instr} {s : State} (hi : readsClock i = true) (h : checkError i s = none) :
    1 ≤ s.stepSize.toNat ∧ s.stepSize.toNat ≤ 255 := by
  rw [← stepError_eq_none]
  cases i with
  | tstep => exact h
  | totp k => exact (Option.or_eq_none_iff.1 (Option.or_eq_none_iff.1 h).2).1
  | _ => cases hi

/-- A command whose checks find an error ends in it and changes nothing but SEQ and STATUS (R147). -/
theorem exec_of_checkError {i : Instr} {s t : State} {e : ECode} (hc : checkError i s = some e)
    (h : exec i s = .next t) : t = s.finish .idle e := by
  rcases exec_cases h with ⟨e', hc', ht⟩ | ⟨_, hc', -⟩ | ⟨hc', -⟩ | ⟨_, hc', -⟩ <;> rw [hc] at hc' <;> cases hc'
  exact ht

end Sys2Proof.Machine

/-! ## The invariant -/

namespace Sys2Proof.Machine

/-- The part of the invariant that speaks of the stored values: canonical cells, OUT_LEN, the key's length, CODE. -/
def State.dataInv (s : State) : Prop :=
  s.mem.wf ∧ s.outLen.toNat ≤ 256 ∧ (s.kvalid = true → s.outLen.toNat ≤ 160) ∧ s.code.toNat ≤ 999999999

/-- The invariant is its two parts, of which each operation touches one. -/
theorem inv_iff {s : State} : s.inv ↔ s.dataInv ∧ s.statusInv := by
  constructor
  · rintro ⟨hm, hs, ho, hk, hc⟩; exact ⟨⟨hm, ho, hk, hc⟩, hs⟩
  · rintro ⟨⟨hm, ho, hk, hc⟩, hs⟩; exact ⟨hm, hs, ho, hk, hc⟩

theorem statusInv_finish_idle (s : State) {e : ECode} (he : e ≠ .clockBeforeEpoch) :
    (s.finish .idle e).statusInv := by
  simp [State.statusInv, he]

theorem statusInv_fault (s : State) : (s.finish .faulted .clockBeforeEpoch).statusInv := by
  simp [State.statusInv]

/-! ### The commands -/

/-- With at most 9 digits CODE is at most 999,999,999 (R35). -/
theorem decimalCode_le {v : BitVec 31} {d : BitVec 8} (hd : d.toNat ≤ 9) : (decimalCode v d).toNat ≤ 999999999 := by
  have hpow : 10 ^ d.toNat ≤ 10 ^ 9 := Nat.pow_le_pow_right (by decide) hd
  have hmod : v.toNat % 10 ^ d.toNat < 10 ^ d.toNat := Nat.mod_lt _ (Nat.pow_pos (by decide))
  rw [decimalCode, BitVec.toNat_ofNat, Nat.mod_eq_of_lt (by omega)]
  omega

theorem dataInv_withholdOutput {s : State} (h : s.dataInv) : s.withholdOutput.dataInv := by
  obtain ⟨hm, -, -, hc⟩ := h
  exact ⟨wf_forget _ _ hm, by simp, by simp, hc⟩

/-- Delivering at most 256 bytes, and a key of at most 160, keeps the data's invariant (R28, R93). -/
theorem dataInv_deliverOutput {s : State} {l : List Byte} {kv : Bool} (hl : l.length ≤ 256)
    (hkv : kv = true → l.length ≤ 160) (h : s.dataInv) : (s.deliverOutput l kv).dataInv := by
  obtain ⟨hm, -, -, hc⟩ := h
  have hlen : (BitVec.ofNat 16 l.length).toNat = l.length := by
    rw [BitVec.toNat_ofNat, Nat.mod_eq_of_lt (by omega)]
  exact ⟨wf_putBytes _ (wf_forget _ _ hm) (by decide) (by omega), hlen ▸ hl, fun hk => hlen ▸ hkv hk, hc⟩

/-- The effect of every command that succeeds keeps the data's invariant. -/
theorem dataInv_succeeds {i : Instr} {s u : State} (hc : checkError i s = none) (hu : Succeeds i s u)
    (h : s.dataInv) : u.dataInv := by
  by_cases hi : readsText i = true
  · obtain ⟨l, rfl, hle, hdec⟩ := succeeds_text hi hu
    rw [checkError_of_readsText s hi, lengthError_eq_none] at hc
    refine dataInv_deliverOutput (by omega) (fun hk => ?_) h
    have := hdec (of_decide_eq_true hk)
    omega
  · obtain ⟨hm, ho, hk, hcode⟩ := h
    obtain ⟨em, eo, ek⟩ := succeeds_keepsKey (by simpa using hi) hu
    refine ⟨em ▸ hm, eo ▸ ho, ek ▸ eo ▸ hk, ?_⟩
    rcases succeeds_code hu with ec | ⟨hd, v, ec⟩ <;> rw [ec]
    · exact hcode
    · exact decimalCode_le (digits_of_checkError_none hd hc).2

/-- Every command, whatever its outcome, gives STATUS the values of its new SEQ and keeps the data's invariant. -/
theorem exec_inv {i : Instr} {s t : State} (h : exec i s = .next t) (hs : s.dataInv) : t.inv := by
  rw [inv_iff]
  rcases exec_cases h with ⟨e, he, rfl⟩ | ⟨e, -, -, he, rfl⟩ | ⟨-, -, -, rfl⟩ | ⟨u, hc, hu, rfl⟩
  · exact ⟨hs, statusInv_finish_idle s fun h => by simpa [h] using checkError_mem he⟩
  · exact ⟨dataInv_withholdOutput hs, statusInv_finish_idle _ fun h => by simpa [h] using textError_mem he⟩
  · exact ⟨hs, statusInv_fault _⟩
  · have hd : u.dataInv := dataInv_succeeds hc hu hs
    exact ⟨hd, statusInv_finish_idle u (by decide)⟩

/-! ### The agents -/

theorem applyReset_inv (s : State) : s.applyReset.inv :=
  ⟨⟨List.Pairwise.nil, by simp⟩, by simp [State.statusInv], by simp, by simp, by simp⟩

theorem action_inv {a : Action} {s t : State} (he : ActionEffect s a t) (h : s.inv) : t.inv := by
  cases he with
  | outside => exact h
  | clearsOvr => exact h
  | dropped => exact h
  | accepted w hi => exact inv_iff.2 ⟨(inv_iff.1 h).1, by simp [State.statusInv]⟩
  | stored off v =>
    obtain ⟨_, _, _, _, _, _, m, heq, hwf⟩ := storeSlot_frame s.spend off v
    rw [heq]
    exact ⟨hwf h.1, h.2⟩

/-- Settles O13: STATUS is set whole by every completion and acceptance, and OUT_LEN, KVALID and CODE change only by commands,
whose checks bound what they write. -/
theorem everyStepKeepsTheInvariant : Obligations.EveryStepKeepsTheInvariant := by
  intro s t hs hstep
  cases step_effect hstep with
  | reset rest => exact applyReset_inv _
  | completed i _ _ _ h => exact exec_inv h (inv_iff.1 hs).1
  | illegal => exact inv_iff.2 ⟨(inv_iff.1 hs).1, statusInv_finish_idle s (by decide)⟩
  | acted a rest _ _ he => exact action_inv he hs
  | quiet => exact hs

end Sys2Proof.Machine

/-! ## OVR, KVALID and REMAIN: what may change them -/

namespace Sys2Proof.Machine

/-! ### No command reads or writes OVR -/

theorem checked_withOvr (s : State) (b : Bool) (err : Option ECode) (u : State) :
    State.checked { s with ovr := b } err { u with ovr := b } = { s.checked err u with ovr := b } := by
  cases err <;> rfl

theorem textCommand_withOvr (s : State) (b : Bool) (f : List Byte → List Byte) (kv : Bool) :
    State.textCommand { s with ovr := b } f kv = { s.textCommand f kv with ovr := b } := by
  have hl : State.lengthError { s with ovr := b } = s.lengthError := rfl
  have ht : State.text { s with ovr := b } = s.text := rfl
  unfold State.textCommand
  rw [hl, ht]
  cases s.lengthError with
  | some e => rfl
  | none => cases textError s.text <;> rfl

theorem timed_withOvr (s : State) (b : Bool) (err : Option ECode) {body : State → State}
    (hbody : ∀ u : State, body { u with ovr := b } = { body u with ovr := b }) :
    State.timed { s with ovr := b } err body = { s.timed err body with ovr := b } := by
  cases err with
  | some e => rfl
  | none =>
    have hc : State.clockSample { s with ovr := b } = s.clockSample := rfl
    unfold State.timed
    rw [hc]
    cases s.clockSample with
    | beforeEpoch => rfl
    | secs c => exact congrArg State.complete (hbody (s.sampled.writeTimeStep c))

/-- A command does the same whatever OVR is, and leaves it as it was (R25). -/
theorem exec_withOvr {i : Instr} {s t : State} (b : Bool) (h : exec i s = .next t) :
    exec i { s with ovr := b } = .next { t with ovr := b } := by
  cases i <;> cases h <;> refine congrArg Host.Outcome.next ?_
  case validate => exact textCommand_withOvr s b id false
  case decode => exact textCommand_withOvr s b decodedBytes true
  case tstep => exact timed_withOvr s b s.stepError fun _ => rfl
  case hmac k => exact checked_withOvr s b (s.keyError k) (s.deriveDigest k)
  case trunc => rfl
  case modc => exact checked_withOvr s b s.digitsError s.deriveCode
  case code k => exact checked_withOvr s b _ ((s.deriveDigest k).deriveTrunc.deriveCode)
  case totp k => exact timed_withOvr s b _ fun _ => rfl

theorem exec_ovr {i : Instr} {s t : State} (h : exec i s = .next t) : t.ovr = s.ovr := by
  have h' : exec i s = .next { t with ovr := s.ovr } := exec_withOvr s.ovr h
  rw [h] at h'
  have ht : t = { t with ovr := s.ovr } := by injection h'
  simpa using congrArg State.ovr ht

/-! ### OVR over a step -/

/-- OVR after a step: cleared by reset or by the host, set by a dropped write, else as it was (R25). -/
theorem step_ovr {s t : State} (h : step s = .next t) :
    (∃ rest, s.actions = .rst :: rest ∧ t.ovr = false) ∨
    (∃ v rest, v.getLsbD 8 = true ∧ s.actions = .write 0x008#10 v :: rest ∧ t.ovr = false) ∨
    (s.seq = .busy ∧ t.ovr = true ∧
      ∃ off v rest, off.toNat % 4 = 0 ∧ off ≠ 0x008#10 ∧ s.actions = .write off v :: rest) ∨
    t.ovr = s.ovr := by
  cases step_effect h with
  | reset rest ha => exact .inl ⟨rest, ha, rfl⟩
  | completed i _ _ _ he => exact .inr (.inr (.inr (exec_ovr he)))
  | illegal => exact .inr (.inr (.inr rfl))
  | quiet => exact .inr (.inr (.inr rfl))
  | acted a rest _ ha he =>
    cases he with
    | outside => exact .inr (.inr (.inr rfl))
    | clearsOvr v hv => exact .inr (.inl ⟨v, rest, hv, ha, rfl⟩)
    | dropped off v hal hoff hb =>
      exact .inr (.inr (.inl ⟨hb, rfl, off, v, rest, aligned_iff.1 hal, hoff, ha⟩))
    | accepted => exact .inr (.inr (.inr rfl))
    | stored => exact .inr (.inr (.inr (storeSlot_ovr ..)))

/-- While BUSY an aligned write to an offset other than STATUS is dropped and sets OVR (R178). -/
theorem memWrite_busy {s : State} {off : Offset} (v : Word) (hb : s.seq = .busy) (hal : off.toNat % 4 = 0)
    (hoff : off ≠ 0x008#10) : memWrite off v s = ⟨.ok, s.setOvr⟩ := by
  have hst : slotOf off ≠ .status := fun h => hoff (slotOf_eq_status.1 h)
  simp [memWrite, aligned_iff.2 hal, hst, hb]

/-- Settles O21: of the effects a step can have, only reset and the host's writes touch OVR. -/
theorem overrunIsSetByDroppedWritesOnly : Obligations.OverrunIsSetByDroppedWritesOnly := by
  refine ⟨fun s off v hb hal hoff => memWrite_busy v hb hal hoff, fun s v => rfl,
    fun i s t b h => ⟨exec_ovr h, exec_withOvr b h⟩, fun s t h h0 h1 => ?_, fun s t h h1 h0 => ?_⟩
  · rcases step_ovr h with ⟨_, _, ht⟩ | ⟨_, _, _, _, ht⟩ | ⟨hb, -, hw⟩ | ht
    · rw [ht] at h1; cases h1
    · rw [ht] at h1; cases h1
    · exact ⟨hb, hw⟩
    · rw [ht, h0] at h1; cases h1
  · rcases step_ovr h with ⟨rest, ha, -⟩ | ⟨v, rest, hv, ha, -⟩ | ⟨_, ht, _⟩ | ht
    · exact .inl ⟨rest, ha⟩
    · exact .inr ⟨v, rest, hv, ha⟩
    · rw [ht] at h0; cases h0
    · rw [ht, h1] at h0; cases h0

/-! ### KVALID -/

/-- No host write reaches KVALID (R26). -/
theorem action_kvalid {a : Action} {s t : State} (he : ActionEffect s a t) : t.kvalid = s.kvalid := by
  cases he with
  | stored => exact storeSlot_kvalid ..
  | _ => rfl

/-- KVALID after a command (R26), by the command and its result code. -/
theorem exec_kvalid {i : Instr} {s t : State} (h : exec i s = .next t) :
    t.kvalid = (if i = .decode ∧ t.ecode = .ok then true
                else if (i = .validate ∨ i = .decode) ∧ t.ecode ≠ .badLength then false else s.kvalid) := by
  rcases exec_cases h with ⟨e, hc, rfl⟩ | ⟨e, -, hi, he, rfl⟩ | ⟨-, hi, -, rfl⟩ | ⟨u, hc, hu, rfl⟩
  · have hok : e ≠ .ok := fun h => by simpa [h] using checkError_mem hc
    have hlen (hi : i = .validate ∨ i = .decode) : e = .badLength := by
      rw [checkError_of_readsText s (readsText_iff.2 hi)] at hc
      rcases lengthError_cases s with hl | hl <;> rw [hl] at hc <;> cases hc
      rfl
    rw [if_neg fun h => hok h.2, if_neg fun h => h.2 (hlen h.1)]
    rfl
  · have hne : e ≠ .ok ∧ e ≠ .badLength := by constructor <;> rintro rfl <;> simpa using textError_mem he
    rw [if_neg fun h => hne.1 h.2, if_pos ⟨readsText_iff.1 hi, hne.2⟩]
    rfl
  · have hi : ¬ (i = .validate ∨ i = .decode) := by rintro (rfl | rfl) <;> cases hi
    rw [if_neg fun h => hi (.inr h.1), if_neg fun h => hi h.1]
    rfl
  · by_cases hi : readsText i = true
    · obtain ⟨l, rfl, -⟩ := succeeds_text hi hu
      rcases readsText_iff.1 hi with rfl | rfl <;> simp
    · obtain ⟨-, -, hk⟩ := succeeds_keepsKey (by simpa using hi) hu
      rw [if_neg fun h => hi (readsText_iff.2 (.inr h.1)), if_neg fun h => hi (readsText_iff.2 h.1)]
      exact hk

/-- A command with KSRC = 1 and no valid key ends in NO_KEY (R73). -/
theorem exec_noKey {i : Instr} {s t : State} (hi : readsOutBuf i = true) (hk : s.kvalid = false)
    (h : exec i s = .next t) : t.ecode = .noKey := by
  have hkey : s.keyError .outBuf = some .noKey := by simp [State.keyError, hk]
  have hc : checkError i s = some .noKey := by
    cases i with
    | hmac k => rw [of_decide_eq_true hi]; exact hkey
    | code k => rw [of_decide_eq_true hi]; exact congrArg (Option.or · _) hkey
    | totp k => rw [of_decide_eq_true hi]; exact congrArg (Option.or · _) hkey
    | _ => cases hi
  rw [exec_of_checkError hc h]
  rfl

/-- Settles O33: the command's cases are `exec_kvalid`, and of the other effects of a step only reset touches KVALID. -/
theorem keyValidFollowsItsCases : Obligations.KeyValidFollowsItsCases := by
  refine ⟨fun i s t h => exec_kvalid h, fun s t h hne => ?_, fun s t i hi hk h => exec_noKey ?_ hk h⟩
  · cases step_effect h with
    | reset rest ha => exact .inl ⟨rest, ha, rfl⟩
    | completed i _ hb hd he =>
      by_cases hi : i = .validate ∨ i = .decode
      · exact .inr ⟨hb, by rcases hi with rfl | rfl <;> simp [hd]⟩
      · have hk := exec_kvalid he
        rw [if_neg fun h => hi (.inr h.1), if_neg fun h => hi h.1] at hk
        exact absurd hk hne
    | illegal => exact absurd rfl hne
    | quiet => exact absurd rfl hne
    | acted a rest _ ha he => exact absurd (action_kvalid he) hne
  · rcases hi with rfl | rfl | rfl <;> rfl

/-! ### REMAIN -/

/-- For a step size of 1 to 255, `remaining` is at least 1 (R100). -/
theorem remaining_ne_zero {t st : DWord} (h1 : 1 ≤ st.toNat) (h2 : st.toNat ≤ 255) : remaining t st ≠ 0#8 := by
  have hmod : t.toNat % st.toNat < st.toNat := Nat.mod_lt _ h1
  intro h
  have h0 := congrArg BitVec.toNat h
  rw [remaining, BitVec.toNat_ofNat, Nat.mod_eq_of_lt (by omega)] at h0
  change _ = 0 at h0
  omega

/-- A command leaves REMAIN as it was or makes it nonzero (R33). -/
theorem exec_remain {i : Instr} {s t : State} (h : exec i s = .next t) : t.remain = s.remain ∨ t.remain ≠ 0#8 := by
  rcases exec_cases h with ⟨e, -, rfl⟩ | ⟨e, -, -, -, rfl⟩ | ⟨-, -, -, rfl⟩ | ⟨u, hc, hu, rfl⟩
  · exact .inl rfl
  · exact .inl rfl
  · exact .inl rfl
  · have clock (hi : readsClock i = true) (c : DWord) : remaining c s.stepSize ≠ 0#8 :=
      let ⟨h1, h2⟩ := stepSize_of_checkError_none hi hc
      remaining_ne_zero h1 h2
    cases i with
    | tstep => obtain ⟨c, -, rfl⟩ := hu; exact .inr (clock rfl c)
    | totp k => obtain ⟨c, -, rfl⟩ := hu; exact .inr (clock rfl c)
    | validate => obtain ⟨-, rfl⟩ := hu; exact .inl rfl
    | decode => obtain ⟨-, rfl⟩ := hu; exact .inl rfl
    | _ => cases hu; exact .inl rfl

/-- No host write reaches REMAIN (R33). -/
theorem action_remain {a : Action} {s t : State} (he : ActionEffect s a t) : t.remain = s.remain := by
  cases he with
  | stored => exact storeSlot_remain ..
  | _ => rfl

/-- Settles O52: commands write REMAIN only with their step size checked, and the host never does. -/
theorem remainBecomesZeroOnlyByReset : Obligations.RemainBecomesZeroOnlyByReset := by
  intro s t h h0
  cases step_effect h with
  | reset rest ha => exact .inr ⟨rest, ha⟩
  | completed i _ _ _ he =>
    rcases exec_remain he with heq | hne
    · exact .inl (heq ▸ h0)
    · exact absurd h0 hne
  | illegal => exact .inl h0
  | acted a rest _ _ he => exact .inl ((action_remain he).symm.trans h0)
  | quiet => exact .inl h0

end Sys2Proof.Machine

/-! ## The frames of the commands -/

namespace Sys2Proof.Machine

/-- Settles O42: an error and the fault keep every result register, and a success is one composition of `derive…` and
`writeTimeStep` per command. -/
theorem codeGeneratorCommandsKeepTheRest : Obligations.CodeGeneratorCommandsKeepTheRest := by
  intro i s t hv hd h
  rcases exec_cases h with ⟨e, -, rfl⟩ | ⟨e, -, hi, -⟩ | ⟨-, -, -, rfl⟩ | ⟨u, -, hu, rfl⟩
  · simp
  · exact ((readsText_iff.1 hi).elim hv hd).elim
  · simp
  · cases i with
    | validate => exact absurd rfl hv
    | decode => exact absurd rfl hd
    | tstep => obtain ⟨c, -, rfl⟩ := hu; simp
    | totp k => obtain ⟨c, -, rfl⟩ := hu; simp
    | _ => cases hu; simp

/-- Settles O43: the three outcomes of a text command, each with what it makes of OUT_BUF. -/
theorem textCommandsKeepTheRest : Obligations.TextCommandsKeepTheRest := by
  intro i s t htext h
  have hi : readsText i = true := readsText_iff.2 htext
  rcases exec_cases h with ⟨e, -, rfl⟩ | ⟨e, hc, -, -, rfl⟩ | ⟨-, hclk, -⟩ | ⟨u, hc, hu, rfl⟩
  · simp
  · rw [checkError_of_readsText s hi, lengthError_eq_none] at hc
    refine ⟨fun a ha => withholdOutput_byteAt_other s ha, ?_⟩
    simp [Nat.not_lt.2 hc]
  · rcases htext with rfl | rfl <;> cases hclk
  · rw [checkError_of_readsText s hi, lengthError_eq_none] at hc
    obtain ⟨l, rfl, hl, -⟩ := succeeds_text hi hu
    refine ⟨fun a ha => deliverOutput_byteAt_other s l (decide (i = .decode)) (by omega) ha, ?_⟩
    simp [Nat.not_lt.2 hc]

end Sys2Proof.Machine

/-! ## The register window as the host sees it -/

namespace Sys2Proof.Machine

/-! ### Accesses to a block that is not BUSY -/

/-- A read of a block that is not BUSY gives the stored value and changes nothing (R56, R65). -/
theorem memRead_notBusy {s : State} {off : Offset} (hb : s.seq ≠ .busy) (hal : off.toNat % 4 = 0) :
    memRead off s = ⟨.ok, s.slotValue off, s⟩ := by
  simp [memRead, aligned_iff.2 hal, hb]

/-- A write to a block that is not BUSY is stored, unless it goes to CMD or STATUS (R66). -/
theorem memWrite_notBusy {s : State} {off : Offset} (v : Word) (hb : s.seq ≠ .busy) (hal : off.toNat % 4 = 0)
    (hst : slotOf off ≠ .status) (hcmd : slotOf off ≠ .cmd) : memWrite off v s = ⟨.ok, s.storeSlot off v⟩ := by
  simp [memWrite, aligned_iff.2 hal, hb, hst, hcmd]

/-- What a stored write reads back as. -/
theorem memRead_memWrite_notBusy {s : State} {off : Offset} (v : Word) (hb : s.seq ≠ .busy) (hal : off.toNat % 4 = 0)
    (hst : slotOf off ≠ .status) (hcmd : slotOf off ≠ .cmd) :
    (memRead off (memWrite off v s).after).data = (s.storeSlot off v).slotValue off := by
  rw [memWrite_notBusy v hb hal hst hcmd, memRead_notBusy (by simpa using hb) hal]

/-! ### Halves and fields of a word -/

@[simp] theorem loWord_withLo (x : DWord) (v : Word) : loWord (withLo x v) = v := BitVec.extractLsb'_append_eq_right
@[simp] theorem hiWord_withHi (x : DWord) (v : Word) : hiWord (withHi x v) = v := BitVec.extractLsb'_append_eq_left

@[simp] theorem Digest.word_withWord (d : Digest) (k : Fin 5) (v : Word) : (d.withWord k v).word k = v := by
  fin_cases k <;> rfl

/-- A buffer word just written reads as it was written (R52). -/
@[simp] theorem bufWord_storeWord (s : State) (a : Nat) (v : Word) : (s.storeWord a v).bufWord a = v := by
  have lane := storeWord_byteAt_lane s a v
  rw [State.bufWord, lane 1 (by decide), lane 2 (by decide), lane 3 (by decide)]
  rw [show (s.storeWord a v).byteAt a = laneByte v 0 from lane 0 (by decide), packLanes_laneByte]

/-- The low `n` bits of a word, widened again, are the word under a mask of `n` ones. -/
theorem setWidth_setWidth_eq_and (v : Word) (n : Nat) :
    (v.setWidth n).setWidth 32 = v &&& BitVec.ofNat 32 (2 ^ n - 1) := by
  ext j hj
  simp [← BitVec.getLsbD_eq_getElem, BitVec.getLsbD_ofNat, hj, Bool.and_comm]

/-- A field of `n` bits does not see the bits above it. -/
theorem setWidth_and_mask (v : Word) {n : Nat} (hn : n ≤ 32) :
    (v &&& BitVec.ofNat 32 (2 ^ n - 1)).setWidth n = v.setWidth n := by
  rw [← setWidth_setWidth_eq_and v n]
  simp [hn]

/-! ### What the host writes reads back -/

/-- The offsets of the registers and the buffer that keep a written word whole (R20). -/
theorem slotOf_keepsWord {off : Offset} (hal : off.toNat % 4 = 0)
    (h : (0x018 ≤ off.toNat ∧ off.toNat ≤ 0x024) ∨ (0x040 ≤ off.toNat ∧ off.toNat ≤ 0x050) ∨
      (0x100 ≤ off.toNat ∧ off.toNat < 0x200)) :
    slotOf off ∈ [.stepSizeLo, .stepSizeHi, .counterLo, .counterHi, .inBuf] ∨ ∃ k, slotOf off = .digest k := by
  revert off; decide +kernel

/-- A word stored to such a slot is its new value. -/
theorem slotValue_storeSlot (s : State) {off : Offset} (v : Word)
    (h : slotOf off ∈ [.stepSizeLo, .stepSizeHi, .counterLo, .counterHi, .inBuf] ∨ ∃ k, slotOf off = .digest k) :
    (s.storeSlot off v).slotValue off = v := by
  rcases h with h | ⟨k, h⟩
  · simp only [List.mem_cons, List.not_mem_nil, or_false] at h
    rcases h with h | h | h | h | h <;> simp [State.slotValue, State.storeSlot, h]
  · simp [State.slotValue, State.storeSlot, h]

/-- Settles O25: a write to an RW slot is stored, and the slot's value is what its field keeps of the word. -/
theorem hostWritesReadBack : Obligations.HostWritesReadBack := by
  intro s off v hb hal
  refine ⟨?_, ?_, ?_, fun h => ?_⟩
  · rintro rfl
    rw [memRead_memWrite_notBusy v hb hal (by decide) (by decide)]
    exact setWidth_setWidth_eq_and v 16
  · rintro rfl
    rw [memRead_memWrite_notBusy v hb hal (by decide) (by decide)]
    exact setWidth_setWidth_eq_and v 8
  · rintro rfl
    rw [memRead_memWrite_notBusy v hb hal (by decide) (by decide)]
    exact setWidth_setWidth_eq_and v 31
  · have hslot := slotOf_keepsWord hal h
    rw [memRead_memWrite_notBusy v hb hal (fun h => by simp [h] at hslot) (fun h => by simp [h] at hslot),
      slotValue_storeSlot s v hslot]

/-! ### What a host write changes -/

/-- Settles O26: each of the offsets names one register, whose field the write replaces. -/
theorem hostWritesChangeOnlyTheirRegister : Obligations.HostWritesChangeOnlyTheirRegister := by
  intro s v hb
  have stored (off : Offset) (h : off.toNat % 4 = 0 ∧ slotOf off ≠ .status ∧ slotOf off ≠ .cmd) :
      memWrite off v s = ⟨.ok, s.storeSlot off v⟩ := memWrite_notBusy v hb h.1 h.2.1 h.2.2
  exact ⟨stored 0x00C#10 (by decide), stored 0x014#10 (by decide), stored 0x018#10 (by decide),
    stored 0x01C#10 (by decide), stored 0x020#10 (by decide), stored 0x024#10 (by decide), stored 0x034#10 (by decide),
    stored 0x040#10 (by decide), stored 0x044#10 (by decide), stored 0x048#10 (by decide), stored 0x04C#10 (by decide),
    stored 0x050#10 (by decide)⟩

/-- Settles O27: the write is `storeWord`, whose lanes and whose other bytes the memory's laws give. -/
theorem hostWriteToInBufStoresFourBytes : Obligations.HostWriteToInBufStoresFourBytes := by
  intro s off v hb hal hlo hhi
  have hslot : slotOf off = .inBuf := slotOf_eq_inBuf.2 ⟨hlo, hhi⟩
  refine ⟨s.storeWord off.toNat v, ?_, rfl, fun j hj => storeWord_byteAt_lane s _ v j hj,
    fun a ha => storeWord_byteAt_other s _ v ha⟩
  rw [memWrite_notBusy v hb hal (by simp [hslot]) (by simp [hslot])]
  simp [State.storeSlot, hslot]

/-! ### What ignores a host write -/

/-- The reserved offsets (R20, R39). -/
theorem slotOf_eq_reserved {off : Offset} (hal : off.toNat % 4 = 0) : slotOf off = .reserved ↔
    off.toNat = 0x03C ∨ (0x054 ≤ off.toNat ∧ off.toNat < 0x100) ∨ 0x300 ≤ off.toNat := by
  revert off; decide +kernel

/-- The offsets of the registers marked RO and of OUT_BUF (R20, R21). -/
theorem slotOf_readOnly {off : Offset} (hal : off.toNat % 4 = 0)
    (h : off.toNat ∈ [0x000, 0x010, 0x028, 0x02C, 0x030, 0x038] ∨ (0x200 ≤ off.toNat ∧ off.toNat < 0x300)) :
    slotOf off ∈ [.id, .outLen, .timeLo, .timeHi, .remain, .code, .outBuf] := by
  revert off; decide +kernel

/-- A reserved offset reads 0 in every state, BUSY or not (R39). -/
theorem memRead_reserved (s : State) {off : Offset} (hal : off.toNat % 4 = 0) (h : slotOf off = .reserved) :
    memRead off s = ⟨.ok, 0#32, s⟩ := by
  simp [memRead, aligned_iff.2 hal, h, Slot.isResult, State.slotValue]

/-- Writes to RO registers, OUT_BUF and reserved offsets change nothing (R21, R39). -/
theorem memWrite_ignored {s : State} {off : Offset} (v : Word) (hb : s.seq ≠ .busy) (hal : off.toNat % 4 = 0)
    (h : slotOf off ∈ [.id, .outLen, .timeLo, .timeHi, .remain, .code, .outBuf] ∨ slotOf off = .reserved) :
    memWrite off v s = ⟨.ok, s⟩ := by
  rw [memWrite_notBusy v hb hal (fun h' => by simp [h'] at h) (fun h' => by simp [h'] at h)]
  simp only [List.mem_cons, List.not_mem_nil, or_false] at h
  rcases h with (h | h | h | h | h | h | h) | h <;> simp [State.storeSlot, h]

/-- Settles O28: by the register map, and for the masked fields because a field of `n` bits does not see the bits above. -/
theorem readOnlyAndReservedIgnoreWrites : Obligations.ReadOnlyAndReservedIgnoreWrites := by
  intro s off v hal
  have masked (o : Offset) (w : Word) (hb : s.seq ≠ .busy)
      (h : o.toNat % 4 = 0 ∧ slotOf o ≠ .status ∧ slotOf o ≠ .cmd) (he : s.storeSlot o v = s.storeSlot o w) :
      memWrite o v s = memWrite o w s := by
    rw [memWrite_notBusy v hb h.1 h.2.1 h.2.2, memWrite_notBusy w hb h.1 h.2.1 h.2.2, he]
  refine ⟨fun h => memRead_reserved s hal ((slotOf_eq_reserved hal).2 h),
    fun hb => ⟨fun h => ?_, fun h => ?_, ?_, ?_, ?_⟩⟩
  · exact memWrite_ignored v hb hal (.inl (slotOf_readOnly hal h))
  · exact memWrite_ignored v hb hal (.inr ((slotOf_eq_reserved hal).2 h))
  · exact masked _ _ hb (by decide)
      (congrArg (fun x => { s with inLen := x }) (setWidth_and_mask v (n := 16) (by decide)).symm)
  · exact masked _ _ hb (by decide)
      (congrArg (fun x => { s with digits := x }) (setWidth_and_mask v (n := 8) (by decide)).symm)
  · exact masked _ _ hb (by decide)
      (congrArg (fun x => { s with trunc := x }) (setWidth_and_mask v (n := 31) (by decide)).symm)

/-! ### What the registers read -/

/-- What each register outside the buffers reads after reset (R166). -/
theorem slotValue_reset {off : Offset} (hal : off.toNat % 4 = 0) (hbuf : ¬ (0x100 ≤ off.toNat ∧ off.toNat < 0x300)) :
    State.reset.slotValue off = if off = 0x000#10 then 0x42335431#32 else if off = 0x014#10 then 6#32
      else if off = 0x018#10 then 30#32 else 0#32 := by
  revert off; decide +kernel

/-- A word of either buffer has its four bytes as its value (R52). -/
theorem slotValue_buffer (s : State) {off : Offset} (hlo : 0x100 ≤ off.toNat) (hhi : off.toNat < 0x300) :
    s.slotValue off = s.bufWord off.toNat := by
  by_cases h : off.toNat < 0x200
  · simp [State.slotValue, slotOf_eq_inBuf.2 ⟨hlo, h⟩]
  · simp [State.slotValue, slotOf_eq_outBuf.2 ⟨by omega, hhi⟩]

/-- The layout of the STATUS word, field by field (R24). -/
theorem statusBits_layout (k o : Bool) (e : ECode) (f r d b : Bool) :
    (statusBits k o e f r d b).getLsbD 0 = b ∧ (statusBits k o e f r d b).getLsbD 1 = d ∧
    (statusBits k o e f r d b).getLsbD 2 = r ∧ (statusBits k o e f r d b).getLsbD 3 = f ∧
    (statusBits k o e f r d b).getLsbD 8 = o ∧ (statusBits k o e f r d b).getLsbD 9 = k ∧
    (statusBits k o e f r d b).toNat / 1024 = 0 ∧ (statusBits k o e f r d b).toNat / 16 % 16 = e.bits.toNat := by
  cases e <;> revert k o f r d b <;> decide

/-- Settles O15: the reset block is IDLE, so every read gives the slot's value there. -/
theorem resetRegistersReadAsListed : Obligations.ResetRegistersReadAsListed := by
  refine ⟨rfl, fun off hal hbuf => ?_⟩
  rw [memRead_notBusy (by decide) hal, slotValue_reset hal hbuf]

/-- Settles O23: a read of a block that is not BUSY gives the slot's value, and the map names the slot. -/
theorem registersReadAsStored : Obligations.RegistersReadAsStored := by
  refine ⟨fun s => by simp [memRead, aligned, slotOf, Slot.isResult, State.slotValue], fun s hb => ?_⟩
  have read (off : Offset) (hal : off.toNat % 4 = 0) : memRead off s = ⟨.ok, s.slotValue off, s⟩ :=
    memRead_notBusy hb hal
  refine ⟨read 0x000#10 rfl, read 0x008#10 rfl, read 0x00C#10 rfl, read 0x010#10 rfl, read 0x014#10 rfl,
    read 0x018#10 rfl, read 0x01C#10 rfl, read 0x020#10 rfl, read 0x024#10 rfl, read 0x028#10 rfl, read 0x02C#10 rfl,
    read 0x030#10 rfl, read 0x034#10 rfl, read 0x038#10 rfl, read 0x040#10 rfl, read 0x044#10 rfl, read 0x048#10 rfl,
    read 0x04C#10 rfl, read 0x050#10 rfl, fun off hal hlo hhi => ?_⟩
  rw [read off hal, slotValue_buffer s hlo hhi]
  rfl

/-- Settles O29: the layout is `statusBits_layout`, with BUSY and FAULT as views of SEQ. -/
theorem statusWordIsLaidOutAsListed : Obligations.StatusWordIsLaidOutAsListed := by
  intro s
  obtain ⟨hbusy, hdone, herr, hfault, hovr, hkv, hhigh, hcode⟩ :=
    statusBits_layout s.kvalid s.ovr s.ecode s.faultFlag s.err s.done s.busyFlag
  refine ⟨?_, hdone, herr, ?_, hovr, hkv, hhigh, ?_⟩
  · rw [State.statusWord, hbusy]; exact decide_eq_true_iff
  · rw [State.statusWord, hfault]; exact decide_eq_true_iff
  · rw [State.statusWord, hcode]; cases s.ecode <;> rfl

end Sys2Proof.Machine

/-! ## The bus, and the block under a command -/

namespace Sys2Proof.Machine

/-! ### Misaligned accesses -/

/-- A misaligned read is refused and changes nothing (R54). -/
theorem memRead_misaligned {off : Offset} (s : State) (hal : aligned off = false) :
    memRead off s = ⟨.busError, 0#32, s⟩ := by
  simp [memRead, hal]

/-- A misaligned write is refused and changes nothing, OVR included (R54). -/
theorem memWrite_misaligned {off : Offset} (v : Word) (s : State) (hal : aligned off = false) :
    memWrite off v s = ⟨.busError, s⟩ := by
  simp [memWrite, hal]

/-- Settles O20: the two accesses are refused, and an action's turn does the access. -/
theorem misalignedAccessIsABusError : Obligations.MisalignedAccessIsABusError := by
  intro s off v h
  have hal : aligned off = false := aligned_false_iff.2 h
  refine ⟨memRead_misaligned s hal, memWrite_misaligned v s hal, fun hturn rest => ⟨fun ha => ?_, fun ha => ?_⟩⟩
  · rw [step_act ha (by simp) hturn]; exact hostRead_misaligned _ hal
  · rw [step_act ha (by simp) hturn]; exact hostWrite_misaligned v _ hal

/-! ### A step under a command -/

/-- Settles O9: the step is an action's, and of the effects an action can have, acceptance needs IDLE and a stored write a
block that is not BUSY; the others reach OVR and the model's own fields only. -/
theorem nothingChangesUnderABusyCommand : Obligations.NothingChangesUnderABusyCommand := by
  intro s t hb hd hne hrst h
  obtain ⟨a, rest, ha⟩ := List.exists_cons_of_ne_nil hne
  have har : a ≠ .rst := by rintro rfl; exact hrst rest ha
  rw [step_act ha har (fun h' => hd h'.2)] at h
  cases action_effect har h with
  | outside => rfl
  | clearsOvr => rfl
  | dropped => rfl
  | accepted w hi => exact absurd (hb.symm.trans hi) (by decide)
  | stored off v _ _ hnb => exact absurd hb hnb

/-! ### Byte lanes and halves -/

/-- Lane `j` of a buffer word is the byte `j` places above the word's offset (R52). -/
theorem laneByte_bufWord (s : State) (a : Nat) {j : Nat} (hj : j < 4) : laneByte (s.bufWord a) j = s.byteAt (a + j) := by
  obtain ⟨h0, h1, h2, h3⟩ := laneByte_packLanes (s.byteAt a) (s.byteAt (a + 1)) (s.byteAt (a + 2)) (s.byteAt (a + 3))
  match j, hj with
  | 0, _ => exact h0
  | 1, _ => exact h1
  | 2, _ => exact h2
  | 3, _ => exact h3

/-- A pair is its `_HI` word above its `_LO` word (R52). -/
theorem hiWord_append_loWord (x : DWord) : hiWord x ++ loWord x = x := by
  rw [hiWord, loWord, BitVec.extractLsb'_append_extractLsb'_eq_extractLsb' (by rfl)]
  simp

/-- The slot of digest word `k` (R20). -/
theorem slotOf_digest (k : Fin 5) : slotOf (BitVec.ofNat 10 (0x040 + 4 * k.val)) = .digest k := by
  revert k; decide

/-- On a block that is not BUSY, byte `i` from a buffer's base on is the lane `i mod 4` of the word read at
base + 4·(i div 4) (R52). -/
theorem memRead_lane {s : State} (hb : s.seq ≠ .busy) {base i : Nat} (hbase : base % 4 = 0) (hlo : 0x100 ≤ base)
    (hhi : base + i < 0x300) :
    laneByte (memRead (BitVec.ofNat 10 (base + 4 * (i / 4))) s).data (i % 4) = s.byteAt (base + i) := by
  have hoff : (BitVec.ofNat 10 (base + 4 * (i / 4))).toNat = base + 4 * (i / 4) := by
    rw [BitVec.toNat_ofNat]; omega
  rw [memRead_notBusy hb (by omega), slotValue_buffer s (by omega) (by omega), hoff,
    laneByte_bufWord s _ (Nat.mod_lt i (by decide)), Nat.add_assoc, Nat.div_add_mod]

/-- Settles O24: a read gives the slot's value; a buffer word's lanes are its bytes, DIGEST's bytes are its words' lanes by
definition, and a pair is its two halves. -/
theorem byteLanesAreLittleEndian : Obligations.ByteLanesAreLittleEndian := by
  intro s hb
  have read (off : Offset) (hal : off.toNat % 4 = 0) : (memRead off s).data = s.slotValue off := by
    rw [memRead_notBusy hb hal]
  refine ⟨fun i hi => memRead_lane hb (by decide) (by decide) (by omega),
    fun i hi => memRead_lane hb (by decide) (by decide) (by omega), fun i => ?_, ?_, ?_, ?_⟩
  · have hslot := slotOf_digest ⟨i.val / 4, by omega⟩
    rw [read _ (by simp), State.slotValue, hslot]
    rfl
  · rw [read _ rfl, read _ rfl]; exact hiWord_append_loWord s.stepSize
  · rw [read _ rfl, read _ rfl]; exact hiWord_append_loWord s.counter
  · rw [read _ rfl, read _ rfl]; exact hiWord_append_loWord s.time

end Sys2Proof.Machine

/-! ## The command words: decoder and encoder -/

namespace Sys2Proof.Machine

/-! ### The fields of a word -/

/-- A word is its three fields, RSVD above KSRC above OP (R71). -/
theorem fieldsOf_append (w : Word) : (fieldsOf w).rsvd ++ (fieldsOf w).ksrc ++ (fieldsOf w).op = w := by
  simp only [fieldsOf]
  rw [BitVec.extractLsb'_append_extractLsb'_eq_extractLsb' (by rfl),
    BitVec.extractLsb'_append_extractLsb'_eq_extractLsb' (by rfl)]
  simp

/-- Words with the same fields are the same word (R71). -/
theorem fieldsOf_injective : Function.Injective fieldsOf := fun w w' h => by
  rw [← fieldsOf_append w, ← fieldsOf_append w', h]

/-- The three fields of a word in plain numbers (R71). -/
theorem fieldsOf_toNat (w : Word) :
    (fieldsOf w).op.toNat = w.toNat % 256 ∧ (fieldsOf w).ksrc.toNat = w.toNat / 256 % 2 ∧
      (fieldsOf w).rsvd.toNat = w.toNat / 512 := by
  have hw := w.isLt
  simp only [fieldsOf, BitVec.extractLsb'_toNat, Nat.shiftRight_eq_div_pow]
  refine ⟨by simp, by simp, Nat.mod_eq_of_lt (by omega)⟩

/-- The encoder's word has the command's OP and KSRC, and no reserved bit (R77). -/
theorem fieldsOf_encode (i : Instr) : fieldsOf (encode i) = ⟨i.op, i.ksrcBit, 0#23⟩ := by
  cases i with
  | hmac k => cases k <;> decide
  | code k => cases k <;> decide
  | totp k => cases k <;> decide
  | _ => decide

/-! ### What the decoder reads -/

theorem bit_keySourceOf (b : BitVec 1) : (keySourceOf b).bit = b := by revert b; decide

/-- The opcode map gives a command of that OP, with the given key source if it takes one (R72). -/
theorem instrOf_eq_some {op : BitVec 8} {k : KeySource} {i : Instr} (h : instrOf op k = some i) :
    i.op = op ∧ i.ksrcBit = if i.takesKey then k.bit else 0#1 := by
  unfold instrOf at h
  split_ifs at h with h1 h2 h3 h4 h5 h6 h7 h8 <;> cases h <;> exact ⟨by symm; assumption, rfl⟩

/-- The opcode map finds every command by its OP (R72). -/
theorem instrOf_op (i : Instr) : instrOf i.op (keySourceOf i.ksrcBit) = some i := by
  cases i with
  | hmac k => cases k <;> rfl
  | code k => cases k <;> rfl
  | totp k => cases k <;> rfl
  | _ => rfl

/-- The decoder reads a command exactly from the fields that the encoder writes (R75, R77). -/
theorem decode_eq_instr_iff {w : Word} {i : Instr} :
    Sys2Proof.decode w = .instr i ↔ fieldsOf w = ⟨i.op, i.ksrcBit, 0#23⟩ := by
  constructor
  · intro h
    unfold Sys2Proof.decode at h
    split at h
    · cases h
    · next j hj =>
      split_ifs at h with hr hk
      cases h
      obtain ⟨hop, hbit⟩ := instrOf_eq_some hj
      have hksrc : i.ksrcBit = (fieldsOf w).ksrc := by
        rw [hbit, bit_keySourceOf]
        split_ifs with ht
        · rfl
        · have : ∀ b : BitVec 1, b ≠ 1#1 → 0#1 = b := by decide
          exact this _ fun h1 => hk ⟨h1, by simpa using ht⟩
      rw [hop, hksrc, ← not_not.1 hr]
  · intro h
    have hk : ¬ (i.ksrcBit = 1#1 ∧ i.takesKey = false) := by cases i <;> simp [Instr.ksrcBit, Instr.takesKey]
    simp only [Sys2Proof.decode, h, instrOf_op, ne_eq, not_true_eq_false, if_false, if_neg hk]

/-- Settles O1: a word is its fields, and both sides fix them to the command's OP and KSRC with no reserved bit. -/
theorem encodingAndDecodingAgree : Obligations.EncodingAndDecodingAgree := by
  intro i _ w
  rw [decode_eq_instr_iff, ← fieldsOf_encode]
  exact fieldsOf_injective.eq_iff

/-- The decoder inverts the encoder (R77). -/
theorem decode_encode (i : Instr) : Sys2Proof.decode (encode i) = .instr i := decode_eq_instr_iff.2 (fieldsOf_encode i)

/-! ### Legal and illegal words -/

/-- The values of OP and KSRC that some command has are those R75 allows. -/
theorem exists_instr_iff {op : BitVec 8} {ksrc : BitVec 1} : (∃ i : Instr, i.op = op ∧ i.ksrcBit = ksrc) ↔
    op.toNat ∈ [0x01, 0x02, 0x10, 0x11, 0x12, 0x13, 0x14, 0x15] ∧ (ksrc.toNat = 0 ∨ op.toNat ∈ [0x11, 0x14, 0x15]) := by
  constructor
  · rintro ⟨i, rfl, rfl⟩
    cases i <;> simp [Instr.op, Instr.ksrcBit]
  · rintro ⟨hop, hk⟩
    simp only [List.mem_cons, List.not_mem_nil, or_false] at hop hk
    have hbit : op.toNat ∉ [0x11, 0x14, 0x15] → 0#1 = ksrc := fun hn =>
      BitVec.eq_of_toNat_eq (hk.resolve_right (by simpa using hn)).symm
    have heq (n : BitVec 8) (h : op.toNat = n.toNat) : n = op := BitVec.eq_of_toNat_eq h.symm
    have hkey : (keySourceOf ksrc).bit = ksrc := bit_keySourceOf ksrc
    rcases hop with h | h | h | h | h | h | h | h
    · exact ⟨.validate, heq _ h, hbit (by simp [h])⟩
    · exact ⟨.decode, heq _ h, hbit (by simp [h])⟩
    · exact ⟨.tstep, heq _ h, hbit (by simp [h])⟩
    · exact ⟨.hmac _, heq _ h, hkey⟩
    · exact ⟨.trunc, heq _ h, hbit (by simp [h])⟩
    · exact ⟨.modc, heq _ h, hbit (by simp [h])⟩
    · exact ⟨.code _, heq _ h, hkey⟩
    · exact ⟨.totp _, heq _ h, hkey⟩

/-- The words that decode, in plain numbers (R75). -/
theorem exists_decode_iff (w : Word) : (∃ i, Sys2Proof.decode w = .instr i) ↔
    w.toNat % 256 ∈ [0x01, 0x02, 0x10, 0x11, 0x12, 0x13, 0x14, 0x15] ∧ w.toNat / 512 = 0 ∧
      (w.toNat / 256 % 2 = 0 ∨ w.toNat % 256 ∈ [0x11, 0x14, 0x15]) := by
  obtain ⟨hop, hksrc, hrsvd⟩ := fieldsOf_toNat w
  have hr : (fieldsOf w).rsvd = 0#23 ↔ (fieldsOf w).rsvd.toNat = 0 := BitVec.toNat_inj.symm
  have hf (i : Instr) : Sys2Proof.decode w = .instr i ↔
      (i.op = (fieldsOf w).op ∧ i.ksrcBit = (fieldsOf w).ksrc) ∧ (fieldsOf w).rsvd = 0#23 := by
    rw [decode_eq_instr_iff, CmdFields.mk.injEq (fieldsOf w).op]
    tauto
  rw [exists_congr hf, exists_and_right, exists_instr_iff, hr, hop, hksrc, hrsvd]
  tauto

/-- A word written to CMD on an IDLE block is accepted unchecked (R175). -/
theorem memWrite_cmd_idle {s : State} (w : Word) (hi : s.seq = .idle) : memWrite cmdOffset w s = ⟨.ok, s.accept w⟩ := by
  simp [memWrite, cmdOffset, aligned, slotOf, hi]

/-- Settles O2: the decoder's words in plain numbers, acceptance without a check, and the engine's step for a word that the
decoder rejects. -/
theorem legalWordsDecodeAndOthersAreIllegal : Obligations.LegalWordsDecodeAndOthersAreIllegal := by
  refine ⟨exists_decode_iff, fun s w hi => ?_, fun s hd => ?_⟩
  · rw [show 0x004#10 = cmdOffset from rfl, memWrite_cmd_idle w hi]
    exact ⟨rfl, rfl⟩
  · rcases engineStep_cases s with ⟨i, h, -⟩ | ⟨_, -, he⟩
    · exact absurd h (hd i)
    · exact he

/-- Settles O3: the decoder on twelve closed words. -/
theorem listedWordsDecodeAsListed : Obligations.ListedWordsDecodeAsListed := by
  unfold Obligations.ListedWordsDecodeAsListed
  decide

/-- The engine's completion of a latched legal word is the command's execution (R176). -/
theorem engineStep_of_decode {s : State} {i : Instr} (h : Sys2Proof.decode s.curCmd = .instr i) :
    engineStep s = exec i s := by
  rw [engineStep, h]

/-- A table word that reads as a command decodes to it (R70). -/
theorem decode_tableWord {n w : Nat} {i : Instr} (h : decodeTableWord n w = some i) :
    Sys2Proof.decode (tableWord n w) = .instr i := by
  unfold decodeTableWord at h
  split at h
  · next hd => rw [hd, Option.some.inj h]
  · cases h

/-- Settles O5: a presented word is completed by the next step, and its completion is the command's execution. -/
theorem presentedTableWordRunsNext : Obligations.PresentedTableWordRunsNext := by
  intro s w i h
  rw [State.withFetchWord, step_present]
  exact engineStep_of_decode (decode_tableWord h)

end Sys2Proof.Machine

/-! ## Runs of the host's programs -/

namespace Sys2Proof.Machine

/-! ### What a pending action does -/

/-- A pending aligned write goes over the bus (R66, R78). -/
theorem step_write {s : State} {off : Offset} {v : Word} {rest : List Action} (ha : s.actions = .write off v :: rest)
    (hturn : ¬ (s.seq = .busy ∧ s.delay = 0)) (hal : off.toNat % 4 = 0) :
    step s = .next (memWrite off v (s.withActions rest).spend).after := by
  rw [step_act ha (by simp) hturn]
  exact hostWrite_aligned v _ (aligned_iff.2 hal)

/-- A pending aligned read goes over the bus and its value is kept (R65, R78). -/
theorem step_read {s : State} {off : Offset} {rest : List Action} (ha : s.actions = .read off :: rest)
    (hturn : ¬ (s.seq = .busy ∧ s.delay = 0)) (hal : off.toNat % 4 = 0) :
    step s = .next
      ((memRead off (s.withActions rest).spend).after.noteRead (memRead off (s.withActions rest).spend).data) := by
  rw [step_act ha (by simp) hturn]
  exact hostRead_aligned _ (aligned_iff.2 hal)

/-- A poll of a BUSY block keeps the WAIT pending (R79). -/
theorem step_wait_busy {s : State} {rest : List Action} (ha : s.actions = .wait :: rest) (hb : s.seq = .busy)
    (hd : s.delay ≠ 0) : step s = .next (s.spend.noteRead s.statusWord) := by
  rw [step_act ha (by simp) (fun h => hd h.2), perform, hostWait_eq, if_pos (by exact hb), withActions_actions, ← ha]
  rfl

/-- A poll of a block that is not BUSY ends the WAIT (R79). -/
theorem step_wait_notBusy {s : State} {rest : List Action} (ha : s.actions = .wait :: rest) (hb : s.seq ≠ .busy) :
    step s = .next ((s.withActions rest).spend.noteRead s.statusWord) := by
  rw [step_act ha (by simp) (fun h => hb h.1), perform, hostWait_eq, if_neg (by exact hb)]
  rfl

/-- The bus's read itself keeps no value: that is the host's part of the step (R56; log entry 10). -/
theorem memRead_after_reads (off : Offset) (s : State) : (memRead off s).after.reads = s.reads := by
  rcases memRead_cases off s with ⟨-, h⟩ | ⟨-, -, -, h⟩ | ⟨-, -, h⟩ <;> rw [h]

/-- What a read gives does not depend on what is pending or due (R65). -/
theorem memRead_data_turn (off : Offset) (s : State) (l : List Action) :
    (memRead off (s.withActions l).spend).data = (memRead off s).data := by
  have hv : (s.withActions l).spend.slotValue off = s.slotValue off := rfl
  simp only [memRead, spend_seq, withActions_seq, spend_draws, withActions_draws, hv, apply_ite ReadResult.data]

/-- Settles O10: one lemma for each action, at its turn. -/
theorem pendingActionsDoWhatTheyName : Obligations.PendingActionsDoWhatTheyName := by
  intro s rest hturn
  refine ⟨fun off v hal ha => step_write ha hturn hal, fun off hal ha => ?_, fun ha hb => ?_,
    fun ha hb => step_wait_notBusy ha hb, fun r ha => step_act ha (by simp) hturn,
    fun n ha => step_act ha (by simp) hturn⟩
  · rw [step_read ha hturn hal, memRead_data_turn, State.noteRead, memRead_after_reads]
    rfl
  · exact step_wait_busy ha hb fun hd => hturn ⟨hb, hd⟩

/-! ### Runs -/

/-- A run's first step, and the run from there. -/
theorem run_succ {M : Host.Core} {n : Nat} {s t : M.State} (h : M.step s = .next t) : M.run (n + 1) s = M.run n t := by
  rw [Host.Core.run, h]

/-- A run goes on from where its first part ends. -/
theorem run_add {M : Host.Core} {m : Nat} (n : Nat) {s t : M.State} (h : M.run m s = .next t) :
    M.run (m + n) s = M.run n t := by
  induction m generalizing s with
  | zero => cases h; rw [Nat.zero_add]
  | succ m ih =>
    rw [Nat.succ_add]
    rw [Host.Core.run] at h ⊢
    cases hs : M.step s with
    | next u => rw [hs] at h; exact ih h
    | fault r => rw [hs] at h; cases h
    | refused r => rw [hs] at h; cases h

/-! ### LOADIN -/

/-- The first word of a text, its missing bytes 0 (R79). -/
def firstWord (l : List Byte) : Word := packLanes (l.getD 0 0#8) (l.getD 1 0#8) (l.getD 2 0#8) (l.getD 3 0#8)

theorem laneByte_firstWord (l : List Byte) {j : Nat} (hj : j < 4) : laneByte (firstWord l) j = l.getD j 0#8 := by
  obtain ⟨h0, h1, h2, h3⟩ := laneByte_packLanes (l.getD 0 0#8) (l.getD 1 0#8) (l.getD 2 0#8) (l.getD 3 0#8)
  match j, hj with
  | 0, _ => exact h0
  | 1, _ => exact h1
  | 2, _ => exact h2
  | 3, _ => exact h3

/-- LOADIN's writes: the first word, then those of the rest of the text (R79). -/
theorem loadWords_of_ne_nil (off : Offset) {l : List Byte} (hl : l ≠ []) :
    loadWords off l = .write off (firstWord l) :: loadWords (off + 4#10) (l.drop 4) := by
  match l, hl with
  | [_], _ => rfl
  | [_, _], _ => rfl
  | [_, _, _], _ => rfl
  | _ :: _ :: _ :: _ :: _, _ => rfl

/-- A pending write to IN_BUF, on a block that is not BUSY, stores its word (R66). -/
theorem step_write_inBuf {s : State} {off : Offset} {v : Word} {rest : List Action}
    (ha : s.actions = .write off v :: rest) (hb : s.seq ≠ .busy) (hal : off.toNat % 4 = 0)
    (hlo : 0x100 ≤ off.toNat) (hhi : off.toNat < 0x200) :
    step s = .next ((s.withActions rest).spend.storeWord off.toNat v) := by
  have hslot : slotOf off = .inBuf := slotOf_eq_inBuf.2 ⟨hlo, hhi⟩
  rw [step_write ha (fun h => hb h.1) hal, memWrite_notBusy v (by simpa using hb) hal (by simp [hslot]) (by simp [hslot])]
  simp only [State.storeSlot, hslot]

/-- `t` holds the text `l` from byte offset `a` on, below it what `s` holds, and `rest` is pending. -/
structure Loaded (s : State) (a : Nat) (l : List Byte) (rest : List Action) (t : State) : Prop where
  actions : t.actions = rest
  seq : t.seq = s.seq
  below : ∀ x < a, t.byteAt x = s.byteAt x
  text : ∀ j < l.length, t.byteAt (a + j) = l.getD j 0#8

/-- LOADIN's writes, run on a block that is not BUSY, put the text in IN_BUF (R52, R79). -/
theorem run_loadWords (l : List Byte) : ∀ {s : State} {off : Offset} {rest : List Action},
    s.actions = loadWords off l ++ rest → s.seq ≠ .busy → off.toNat % 4 = 0 → 0x100 ≤ off.toNat →
    off.toNat + l.length ≤ 0x200 →
    ∃ t : State, Host.Core.run Sys2Proof.core (loadWords off l).length s = .next t ∧ Loaded s off.toNat l rest t := by
  intro s off rest ha hb hal hlo hhi
  by_cases hl : l = []
  · subst hl
    exact ⟨s, rfl, ha, rfl, fun _ _ => rfl, by simp⟩
  · have hpos : 0 < l.length := List.length_pos_iff.2 hl
    have hdrop : (l.drop 4).length = l.length - 4 := List.length_drop
    have hoff : (off + 4#10).toNat = off.toNat + 4 := by
      rw [BitVec.toNat_add, BitVec.toNat_ofNat]; omega
    rw [loadWords_of_ne_nil off hl] at ha ⊢
    have hstep := step_write_inBuf ha hb hal hlo (by omega)
    obtain ⟨t, hrun, hacts, hseq, hbelow, htext⟩ := run_loadWords (l.drop 4)
      (s := (s.withActions (loadWords (off + 4#10) (l.drop 4) ++ rest)).spend.storeWord off.toNat (firstWord l))
      (off := off + 4#10) rfl hb (by omega) (by omega) (by omega)
    rw [hoff] at hbelow htext
    refine ⟨t, ?_, hacts, hseq, fun x hx => ?_, fun j hj => ?_⟩
    · exact (run_succ (M := Sys2Proof.core) hstep).trans hrun
    · rw [hbelow x (by omega), storeWord_byteAt_other _ _ _ (.inl hx)]
      rfl
    · by_cases hj4 : j < 4
      · rw [hbelow _ (by omega), storeWord_byteAt_lane _ _ _ j hj4, laneByte_firstWord l hj4]
      · have := htext (j - 4) (by omega)
        rw [show off.toNat + 4 + (j - 4) = off.toNat + j by omega] at this
        rw [this, List.getD_eq_getElem?_getD, List.getElem?_drop, Nat.add_sub_cancel' (by omega),
          List.getD_eq_getElem?_getD]
  termination_by l.length
  decreasing_by omega

/-- A pending write of IN_LEN, on a block that is not BUSY, stores its low half (R27, R66). -/
theorem step_write_inLen {s : State} {v : Word} {rest : List Action} (ha : s.actions = .write inLenOffset v :: rest)
    (hb : s.seq ≠ .busy) :
    step s = .next { (s.withActions rest).spend with inLen := v.setWidth 16 } := by
  rw [step_write ha (fun h => hb h.1) (by decide), memWrite_notBusy v (by exact hb) (by decide) (by decide) (by decide)]
  rfl

/-- Settles O11: the words of the text by `run_loadWords`, then the write of IN_LEN. -/
theorem loadInPutsTheTextInPlace : Obligations.LoadInPutsTheTextInPlace := by
  intro s l hb hl
  obtain ⟨t, hrun, hacts, hseq, -, htext⟩ := run_loadWords l (s := { s with actions := loadIn l }) rfl hb
    (by decide) (by decide) (by change 0x100 + l.length ≤ 0x200; omega)
  have hstep := step_write_inLen hacts (by rw [hseq]; exact hb)
  refine ⟨{ (t.withActions []).spend with inLen := (BitVec.ofNat 32 l.length).setWidth 16 }, ?_, ?_, ?_, rfl, hseq⟩
  · rw [show (loadIn l).length = (loadWords 0x100#10 l).length + 1 from List.length_append]
    exact (run_add 1 hrun).trans (run_succ (M := Sys2Proof.core) hstep)
  · rw [BitVec.toNat_setWidth, BitVec.toNat_ofNat]
    omega
  · refine List.ext_getElem (by simp [State.inBytes]) fun j _ hj => ?_
    simp only [State.inBytes, List.getElem_map, List.getElem_range]
    exact (htext j hj).trans (List.getD_eq_getElem l 0#8 hj)

/-! ### RUN -/

/-- The state with what is the host's replaced: what is pending, what its reads gave, and the accesses due (log entries 6, 8
and 10). -/
def State.withHost (s : State) (l : List Action) (r : List Word) (d : Nat) : State :=
  { s with actions := l, reads := r, delay := d }

@[simp] theorem withHost_seq (s : State) (l : List Action) (r : List Word) (d : Nat) :
    (s.withHost l r d).seq = s.seq := rfl

@[simp] theorem withHost_curCmd (s : State) (l : List Action) (r : List Word) (d : Nat) :
    (s.withHost l r d).curCmd = s.curCmd := rfl

@[simp] theorem withHost_actions (s : State) (l : List Action) (r : List Word) (d : Nat) :
    (s.withHost l r d).actions = l := rfl

theorem checked_withHost (s : State) (l : List Action) (r : List Word) (d : Nat) (err : Option ECode) (u : State) :
    (s.withHost l r d).checked err (u.withHost l r d) = (s.checked err u).withHost l r d := by
  cases err <;> rfl

theorem textCommand_withHost (s : State) (l : List Action) (r : List Word) (d : Nat) (f : List Byte → List Byte)
    (kv : Bool) : (s.withHost l r d).textCommand f kv = (s.textCommand f kv).withHost l r d := by
  have hl : (s.withHost l r d).lengthError = s.lengthError := rfl
  have ht : (s.withHost l r d).text = s.text := rfl
  unfold State.textCommand
  rw [hl, ht]
  cases s.lengthError with
  | some e => rfl
  | none => cases textError s.text <;> rfl

theorem timed_withHost (s : State) (l : List Action) (r : List Word) (d : Nat) (err : Option ECode)
    {body : State → State} (hbody : ∀ u : State, body (u.withHost l r d) = (body u).withHost l r d) :
    (s.withHost l r d).timed err body = (s.timed err body).withHost l r d := by
  cases err with
  | some e => rfl
  | none =>
    have hc : (s.withHost l r d).clockSample = s.clockSample := rfl
    unfold State.timed
    rw [hc]
    cases s.clockSample with
    | beforeEpoch => rfl
    | secs c => exact congrArg State.complete (hbody (s.sampled.writeTimeStep c))

/-- A command neither reads nor writes what is the host's. -/
theorem exec_withHost {i : Instr} {s t : State} (l : List Action) (r : List Word) (d : Nat) (h : exec i s = .next t) :
    exec i (s.withHost l r d) = .next (t.withHost l r d) := by
  cases i <;> cases h <;> refine congrArg Host.Outcome.next ?_
  case validate => exact textCommand_withHost s l r d id false
  case decode => exact textCommand_withHost s l r d decodedBytes true
  case tstep => exact timed_withHost s l r d s.stepError fun _ => rfl
  case hmac k => exact checked_withHost s l r d (s.keyError k) (s.deriveDigest k)
  case trunc => rfl
  case modc => exact checked_withHost s l r d s.digitsError s.deriveCode
  case code k => exact checked_withHost s l r d _ ((s.deriveDigest k).deriveTrunc.deriveCode)
  case totp k => exact timed_withHost s l r d _ fun _ => rfl

/-- A command leaves what is pending as it was. -/
theorem exec_actions {i : Instr} {s t : State} (h : exec i s = .next t) : t.actions = s.actions := by
  have h' : exec i s = .next (t.withHost s.actions s.reads s.delay) := exec_withHost s.actions s.reads s.delay h
  rw [h] at h'
  have ht : t = t.withHost s.actions s.reads s.delay := by injection h'
  rw [ht, withHost_actions]

/-- A completion leaves BUSY (R176). -/
theorem exec_seq {i : Instr} {s t : State} (h : exec i s = .next t) : t.seq ≠ .busy := by
  rcases exec_cases h with ⟨e, -, rfl⟩ | ⟨e, -, -, -, rfl⟩ | ⟨-, -, -, rfl⟩ | ⟨u, -, -, rfl⟩ <;> simp

/-- A WAIT on a BUSY block polls until no access is due, and its polls change nothing of the block (R79, R177). -/
theorem run_wait_busy {s : State} {rest : List Action} (hb : s.seq = .busy) : ∀ (d : Nat) (r : List Word),
    ∃ r', Host.Core.run Sys2Proof.core d (s.withHost (.wait :: rest) r d) = .next (s.withHost (.wait :: rest) r' 0)
  | 0, r => ⟨r, rfl⟩
  | d + 1, r => by
    have hstep := step_wait_busy (s := s.withHost (.wait :: rest) r (d + 1)) rfl hb (Nat.succ_ne_zero d)
    obtain ⟨r', hrun⟩ := run_wait_busy (rest := rest) hb d (s.statusWord :: r)
    exact ⟨r', (run_succ (M := Sys2Proof.core) hstep).trans hrun⟩

/-- A WAIT under an accepted command: the polls use up the LATENCY, the engine executes the command, and one more poll ends
the WAIT (R79, R176, R177). -/
theorem run_wait_accepted {a : State} {i : Instr} (hb : a.seq = .busy) (hd : Sys2Proof.decode a.curCmd = .instr i)
    (r : List Word) : ∃ u r', exec i a = .next u ∧
      Host.Core.run Sys2Proof.core (a.delay + 2) (a.withHost [.wait] r a.delay) = .next (u.withHost [] r' 0) := by
  obtain ⟨u, hu⟩ := exec_next i a
  obtain ⟨r', hpolls⟩ := run_wait_busy (rest := []) hb a.delay r
  have hengine : step (a.withHost [.wait] r' 0) = .next (u.withHost [.wait] r' 0) := by
    rw [step_engine (by simpa using hb) (.inl rfl) (by simp), engineStep_of_decode (by simpa using hd)]
    exact exec_withHost _ _ _ hu
  have hlast := step_wait_notBusy (s := u.withHost [.wait] r' 0) rfl (by simpa using exec_seq hu)
  exact ⟨u, _, hu, (run_add 2 hpolls).trans <| (run_succ (M := Sys2Proof.core) hengine).trans <|
    run_succ (M := Sys2Proof.core) hlast⟩

/-- RUN's write is the acceptance of the command's word, with the WAIT pending (R79, R175). -/
theorem step_runCmd {s : State} (i : Instr) (hi : s.seq = .idle) : step { s with actions := runCmd i } =
    .next ((State.accept { s with actions := [] } (encode i)).withHost [.wait] s.reads
      (State.accept { s with actions := [] } (encode i)).delay) := by
  rw [step_write rfl (fun h => by simp [hi] at h) (by decide), memWrite_cmd_idle _ (by simpa using hi)]
  rfl

/-- Settles O12: the CMD write is the acceptance, and the WAIT polls until the command is executed. -/
theorem runOfACommandIsItsExecution : Obligations.RunOfACommandIsItsExecution := by
  intro i s hi
  have hacc := memWrite_cmd_idle (s := { s with actions := [] }) (encode i) hi
  obtain ⟨u, r, hu, hwait⟩ := run_wait_accepted
    (accept_seq { s with actions := [] } (encode i)) (decode_encode i) s.reads
  refine ⟨_, u.withHost [] r 0, u, (run_succ (M := Sys2Proof.core) (step_runCmd i hi)).trans hwait, ?_, ?_⟩
  · rw [show 0x004#10 = cmdOffset from rfl, hacc]
    exact hu
  · rw [← show u.actions = [] from exec_actions hu]
    rfl

end Sys2Proof.Machine

/-! ## The key=out commands -/

namespace Sys2Proof.Machine

/-- A command that completes with success has its effect (R145). -/
theorem exec_ok {i : Instr} {s t : State} (h : exec i s = .next t) (hok : t.ecode = .ok) :
    ∃ u, Succeeds i s u ∧ t = u.finish .idle .ok := by
  rcases exec_cases h with ⟨e, he, rfl⟩ | ⟨e, -, -, he, rfl⟩ | ⟨-, -, -, rfl⟩ | ⟨u, -, hu, rfl⟩
  · cases hok; simpa using checkError_mem he
  · cases hok; simpa using textError_mem he
  · cases hok
  · exact ⟨u, hu, rfl⟩

/-- A command over no text and no clock ends in the result of its checks (R147). -/
theorem exec_ecode_of_checks {i : Instr} {s t : State} (ht : readsText i = false) (hc : readsClock i = false)
    (h : exec i s = .next t) : t.ecode = (checkError i s).getD .ok := by
  rcases exec_cases h with ⟨e, he, rfl⟩ | ⟨e, -, ht', -⟩ | ⟨-, hc', -⟩ | ⟨u, he, -, rfl⟩
  · rw [he]; rfl
  · rw [ht] at ht'; cases ht'
  · rw [hc] at hc'; cases hc'
  · rw [he]; rfl

/-- States with the same decoded key give the same key bytes (R73). -/
theorem keyBytes_outBuf_congr {s1 s2 : State} (hlen : s1.outLen = s2.outLen)
    (hbytes : ∀ j < s1.outLen.toNat, s1.outByte j = s2.outByte j) : s1.keyBytes .outBuf = s2.keyBytes .outBuf := by
  simp only [State.keyBytes, State.outBytes, ← hlen]
  exact List.map_congr_left fun j hj => hbytes j (List.mem_range.1 hj)

/-- Settles O46: the checks read KVALID (and DIGITS), step 1 the key and COUNTER, and each later step what the one before
wrote. -/
theorem keyOutCommandsReadNothingElse : Obligations.KeyOutCommandsReadNothingElse := by
  intro s1 s2 t1 t2 u1 u2 hkv hlen hbytes hctr ht1 ht2 hu1 hu2
  have hkey : s1.keyError .outBuf = s2.keyError .outBuf := by simp only [State.keyError, hkv]
  have hdigest : (s1.deriveDigest .outBuf).digest = (s2.deriveDigest .outBuf).digest := by
    simp only [deriveDigest_digest, keyBytes_outBuf_congr hlen hbytes, hctr]
  have htcode : t1.ecode = t2.ecode := by
    rw [exec_ecode_of_checks rfl rfl ht1, exec_ecode_of_checks rfl rfl ht2, checkError, checkError, hkey]
  refine ⟨htcode, fun hok => ?_, fun hdig => ?_⟩
  · obtain ⟨_, rfl, rfl⟩ := exec_ok ht1 hok
    obtain ⟨_, rfl, rfl⟩ := exec_ok ht2 (htcode ▸ hok)
    exact hdigest
  · have hucode : u1.ecode = u2.ecode := by
      rw [exec_ecode_of_checks rfl rfl hu1, exec_ecode_of_checks rfl rfl hu2, checkError, checkError, hkey,
        State.digitsError, State.digitsError, hdig]
    refine ⟨hucode, fun hok => ?_⟩
    obtain ⟨_, rfl, rfl⟩ := exec_ok hu1 hok
    obtain ⟨_, rfl, rfl⟩ := exec_ok hu2 (hucode ▸ hok)
    simp [-deriveDigest_digest, hdigest, hdig]

end Sys2Proof.Machine

/-! ## The Base32 codec: bits, bytes and the running register -/

namespace Sys2Proof.Machine

/-! ### The bits of a symbol -/

/-- A symbol's bits are those of its value, most significant first (R91). -/
theorem symbolBits_getElem? {b : Byte} {v : BitVec 5} (hv : symbolValue b = some v) (p : Nat) :
    (symbolBits b)[p]?.getD false = v.getMsbD p := by
  have hbits : symbolBits b = [v.getLsbD 4, v.getLsbD 3, v.getLsbD 2, v.getLsbD 1, v.getLsbD 0] := by
    simp only [symbolBits, hv]
  rw [hbits, BitVec.getMsbD_eq_getLsbD]
  match p with
  | 0 | 1 | 2 | 3 | 4 => simp
  | p + 5 => simp

/-- A symbol's bits in plain numbers, either case (R85, R87, R91). -/
theorem symbolBits_upper_getElem? {b : Byte} (hb : base32Char b = true) {p : Nat} (hp : p < 5) :
    (symbolBits (upper b))[p]?.getD false = (base32Value b).testBit (4 - p) := by
  rw [symbolBits_getElem? (symbolValue_upper hb), BitVec.getMsbD_eq_getLsbD, BitVec.getLsbD_ofNat]
  simp [hp, show 4 - p < 5 by omega]

theorem bitStream_cons (b : Byte) (u : List Byte) : bitStream (b :: u) = symbolBits b ++ bitStream u := rfl

/-- Bit `5i + p` of a text's stream is bit `p` of its symbol `i` (R91). -/
theorem bitStream_getElem? {u : List Byte} (hu : inAlphabet u = true) {i p : Nat} (hp : p < 5) :
    (bitStream u)[5 * i + p]? = u[i]?.bind fun b => (symbolBits b)[p]? := by
  induction u generalizing i with
  | nil => rfl
  | cons b u ih =>
    simp only [inAlphabet, List.all_cons, Bool.and_eq_true] at hu
    have hlen : (symbolBits b).length = 5 := symbolBits_length hu.1
    rw [bitStream_cons]
    cases i with
    | zero => rw [List.getElem?_append_left (by omega)]; simp
    | succ i =>
      rw [List.getElem?_append_right (by omega), hlen, show 5 * (i + 1) + p - 5 = 5 * i + p by omega]
      exact ih hu.2

/-! ### The first byte of a bit string -/

/-- The first eight bits of a bit string as a byte, bit 7 first, filled up with zero bits. -/
def leadingByte (l : List Bool) : Byte :=
  byteOfBits (l.getD 0 false) (l.getD 1 false) (l.getD 2 false) (l.getD 3 false)
    (l.getD 4 false) (l.getD 5 false) (l.getD 6 false) (l.getD 7 false)

theorem getMsbD_byteOfBits : ∀ (b7 b6 b5 b4 b3 b2 b1 b0 : Bool) (p : Fin 8),
    (byteOfBits b7 b6 b5 b4 b3 b2 b1 b0).getMsbD p = [b7, b6, b5, b4, b3, b2, b1, b0][p] := by
  decide +kernel

theorem getMsbD_leadingByte (l : List Bool) {p : Nat} (hp : p < 8) :
    (leadingByte l).getMsbD p = l[p]?.getD false := by
  refine (getMsbD_byteOfBits _ _ _ _ _ _ _ _ ⟨p, hp⟩).trans ?_
  rw [← List.getD_eq_getElem?_getD]
  interval_cases p <;> rfl

theorem packBytes_of_length_lt {l : List Bool} (h : l.length < 8) : packBytes l = [] :=
  List.eq_nil_of_length_eq_zero (by rw [packBytes_length]; omega)

/-- A bit string of at least eight bits packs to its first byte and the bytes of the rest (R92). -/
theorem packBytes_append {l r : List Bool} (h : 8 ≤ l.length) :
    packBytes (l ++ r) = leadingByte l :: packBytes (l.drop 8 ++ r) := by
  match l, h with
  | _ :: _ :: _ :: _ :: _ :: _ :: _ :: _ :: _, _ => rfl

theorem packBytes_of_length_ge {l : List Bool} (h : 8 ≤ l.length) :
    packBytes l = leadingByte l :: packBytes (l.drop 8) := by
  simpa using packBytes_append (r := []) h

/-- Output byte `j` is made of the stream's bits from `8j` on (R92). -/
theorem packBytes_getElem {l : List Bool} {j : Nat} (h : j < (packBytes l).length) :
    (packBytes l)[j] = leadingByte (l.drop (8 * j)) := by
  induction j generalizing l with
  | zero =>
    have hl : 8 ≤ l.length := by rw [packBytes_length] at h; omega
    simp [packBytes_of_length_ge hl]
  | succ j ih =>
    have hl : 8 ≤ l.length := by rw [packBytes_length] at h; omega
    simp only [packBytes_of_length_ge hl, List.getElem_cons_succ]
    rw [ih, List.drop_drop, Nat.mul_succ, Nat.add_comm]

/-! ### The running register

After some symbols `cur` holds the bits that complete no byte yet, from its top down. -/

/-- Bits put behind those of `q` in a byte. -/
theorem leadingByte_append {q l : List Bool} {x : Byte}
    (hx : ∀ i < 8, x.getMsbD i = (decide (q.length ≤ i) && l[i - q.length]?.getD false)) :
    leadingByte (q ++ l) = leadingByte q ||| x := by
  refine BitVec.eq_of_getMsbD_eq fun i hi => ?_
  rw [BitVec.getMsbD_or, getMsbD_leadingByte _ hi, getMsbD_leadingByte _ hi, hx i hi]
  rcases Nat.lt_or_ge i q.length with hlt | hge
  · simp [List.getElem?_append_left hlt, hlt]
  · simp [List.getElem?_append_right hge, hge]

section Symbol
variable {q : List Bool} {b : Byte} {v : BitVec 5} (hv : symbolValue b = some v)
include hv

/-- A symbol behind at most three bits fits in the byte: the first branch of R95. -/
theorem leadingByte_append_of_fits (hq : q.length ≤ 3) :
    leadingByte (q ++ symbolBits b) = leadingByte q ||| v.setWidth 8 <<< (8 - q.length - 5) := by
  refine leadingByte_append fun i hi => ?_
  rw [symbolBits_getElem? hv, BitVec.getMsbD_shiftLeft, BitVec.getMsbD_setWidth,
    show i + (8 - q.length - 5) + 5 - 8 = i - q.length by omega]
  exact congrArg (· && _) (decide_eq_decide.2 (by omega))

/-- A symbol behind more than three bits runs over the byte's end: what the second branch of R95 emits. -/
theorem leadingByte_append_of_overflows (hq : 3 < q.length) (hq' : q.length < 8) :
    leadingByte (q ++ symbolBits b) = leadingByte q ||| v.setWidth 8 >>> (5 - (8 - q.length)) := by
  refine leadingByte_append fun i hi => ?_
  rw [symbolBits_getElem? hv, BitVec.getMsbD_ushiftRight, BitVec.getMsbD_setWidth,
    show i - (5 - (8 - q.length)) + 5 - 8 = i - q.length by omega, ← Bool.and_assoc, ← Bool.and_assoc]
  refine congrArg (· && _) (Bool.eq_iff_iff.2 ?_)
  simp only [Bool.and_eq_true, Bool.not_eq_true', decide_eq_true_eq, decide_eq_false_iff_not]
  omega

/-- The low bits of that symbol, which the second branch of R95 carries into the new byte. -/
theorem leadingByte_drop_append (hq : 3 < q.length) (hq' : q.length < 8) :
    leadingByte ((q ++ symbolBits b).drop 8) = v.setWidth 8 <<< (8 - (5 - (8 - q.length))) := by
  refine BitVec.eq_of_getMsbD_eq fun i hi => ?_
  rw [getMsbD_leadingByte _ hi, List.getElem?_drop, List.getElem?_append_right (by omega), symbolBits_getElem? hv,
    BitVec.getMsbD_shiftLeft, BitVec.getMsbD_setWidth,
    show i + (8 - (5 - (8 - q.length))) + 5 - 8 = 8 + i - q.length by omega,
    decide_eq_true (by omega), Bool.true_and]

end Symbol

/-- The loop of R95 from a point where the bits `q` wait in `cur` gives the bytes of `q` and the bits still to come. -/
theorem runningRegister_eq_packBytes {u : List Byte} (hu : inAlphabet u = true) {q : List Bool} (hq : q.length < 8) :
    runningRegister (8 - q.length) (leadingByte q) u = packBytes (q ++ bitStream u) := by
  induction u generalizing q with
  | nil => exact (packBytes_of_length_lt (by simpa [bitStream] using hq)).symm
  | cons b u ih =>
    simp only [inAlphabet, List.all_cons, Bool.and_eq_true] at hu
    obtain ⟨hb, hu⟩ := hu
    obtain ⟨v, hv⟩ := Option.isSome_iff_exists.1 hb
    have hlen : (q ++ symbolBits b).length = q.length + 5 := by rw [List.length_append, symbolBits_length hb]
    have hstream : q ++ bitStream (b :: u) = (q ++ symbolBits b) ++ bitStream u := by
      rw [bitStream_cons, List.append_assoc]
    rw [runningRegister, hstream]
    simp only [hv]
    by_cases hfit : 5 ≤ 8 - q.length
    · rw [if_pos hfit, ← leadingByte_append_of_fits hv (by omega)]
      by_cases hfull : 8 - q.length - 5 = 0
      · -- the byte is full and nothing waits
        rw [if_pos hfull, packBytes_append (by omega), List.drop_of_length_le (by omega)]
        exact congrArg (_ :: ·) (ih hu (q := []) (by decide))
      · rw [if_neg hfull, show 8 - q.length - 5 = 8 - (q ++ symbolBits b).length by omega]
        exact ih hu (by omega)
    · have hdrop : ((q ++ symbolBits b).drop 8).length = 5 - (8 - q.length) := by rw [List.length_drop]; omega
      rw [if_neg hfit, packBytes_append (by omega), ← leadingByte_append_of_overflows hv (by omega) hq,
        ← leadingByte_drop_append hv (by omega) hq, ← hdrop]
      exact congrArg (_ :: ·) (ih hu (by omega))

/-- Settles O48: at the start no bit waits. -/
theorem runningRegisterGivesTheBitStream : Obligations.RunningRegisterGivesTheBitStream := fun _ hu =>
  runningRegister_eq_packBytes (q := []) hu (by decide)

/-! ### The codec's output in plain numbers -/

theorem upper_toNat {b : Byte} (hb : base32Char b = true) :
    (upper b).toNat = if 0x61 ≤ b.toNat then b.toNat - 0x20 else b.toNat := by
  revert b; decide +kernel

theorem inAlphabet_of_base32Char {t : List Byte} (ht : ∀ b ∈ t, base32Char b = true) :
    inAlphabet (upperText t) = true := by
  rw [inAlphabet_upperText]; exact List.all_eq_true.2 ht

/-- Bit `k` of the stream of a text over `[A-Za-z2-7]` (R91). -/
theorem bitStream_upperText_getElem? {t : List Byte} (ht : ∀ b ∈ t, base32Char b = true) {k : Nat}
    (hk : k / 5 < t.length) :
    (bitStream (upperText t))[k]?.getD false = (base32Value t[k / 5]).testBit (4 - k % 5) := by
  have hmod : k % 5 < 5 := Nat.mod_lt _ (by decide)
  have hget : (upperText t)[k / 5]? = some (upper t[k / 5]) := by simp [upperText, hk]
  rw [← symbolBits_upper_getElem? (ht _ (List.getElem_mem hk)) hmod]
  conv_lhs => rw [← Nat.div_add_mod k 5, bitStream_getElem? (inAlphabet_of_base32Char ht) hmod, hget,
    Option.bind_some]

/-- Bit `7 - p` of the byte at `j` that DECODE gives (R92). -/
theorem getLsbD_decodedBytes {t : List Byte} (ht : ∀ b ∈ t, base32Char b = true) {j p : Nat}
    (hj : j < (decodedBytes (upperText t)).length) (hp : p < 8) (hi : (8 * j + p) / 5 < t.length) :
    (decodedBytes (upperText t))[j].getLsbD (7 - p) =
      (base32Value t[(8 * j + p) / 5]).testBit (4 - (8 * j + p) % 5) := by
  rw [← bitStream_upperText_getElem? ht hi, ← List.getElem?_drop, ← getMsbD_leadingByte _ hp,
    ← packBytes_getElem hj, BitVec.getMsbD_eq_getLsbD, decide_eq_true hp, Bool.true_and]
  rfl

/-! ### Decoding an encoded string -/

theorem symbolBits_alphabetChar : ∀ b4 b3 b2 b1 b0 : Bool,
    symbolBits (alphabetChar b4 b3 b2 b1 b0) = [b4, b3, b2, b1, b0] := by decide

theorem bitStream_alphabetChar (b4 b3 b2 b1 b0 : Bool) :
    bitStream [alphabetChar b4 b3 b2 b1 b0] = [b4, b3, b2, b1, b0] := by
  rw [bitStream, List.flatMap_singleton, symbolBits_alphabetChar]

theorem upper_alphabetChar : ∀ b4 b3 b2 b1 b0 : Bool,
    upper (alphabetChar b4 b3 b2 b1 b0) = alphabetChar b4 b3 b2 b1 b0 := by decide

theorem base32Char_alphabetChar : ∀ b4 b3 b2 b1 b0 : Bool,
    base32Char (alphabetChar b4 b3 b2 b1 b0) = true := by decide

/-- The encoder writes symbols of the alphabet only (RFC 4648). -/
theorem symbolsOfBits_mem {l : List Bool} {b : Byte} (h : b ∈ symbolsOfBits l) :
    ∃ b4 b3 b2 b1 b0, b = alphabetChar b4 b3 b2 b1 b0 := by
  induction l using symbolsOfBits.induct with
  | case1 b4 b3 b2 b1 b0 rest ih =>
    rcases List.mem_cons.1 h with rfl | h
    · exact ⟨b4, b3, b2, b1, b0, rfl⟩
    · exact ih h
  | case2 => cases h
  | case3 b4 => exact ⟨_, _, _, _, _, List.mem_singleton.1 h⟩
  | case4 b4 b3 => exact ⟨_, _, _, _, _, List.mem_singleton.1 h⟩
  | case5 b4 b3 b2 => exact ⟨_, _, _, _, _, List.mem_singleton.1 h⟩
  | case6 b4 b3 b2 b1 => exact ⟨_, _, _, _, _, List.mem_singleton.1 h⟩

theorem upperText_symbolsOfBits (l : List Bool) : upperText (symbolsOfBits l) = symbolsOfBits l :=
  (List.map_congr_left fun b hb => by
    obtain ⟨b4, b3, b2, b1, b0, rfl⟩ := symbolsOfBits_mem hb
    exact upper_alphabetChar ..).trans (List.map_id _)

/-- The bit stream of an encoded bit string is that string and the zero bits that fill up its last symbol. -/
theorem bitStream_symbolsOfBits (l : List Bool) :
    ∃ z < 5, bitStream (symbolsOfBits l) = l ++ List.replicate z false := by
  induction l using symbolsOfBits.induct with
  | case1 b4 b3 b2 b1 b0 rest ih =>
    obtain ⟨z, hz, ih⟩ := ih
    refine ⟨z, hz, ?_⟩
    rw [symbolsOfBits, bitStream_cons, symbolBits_alphabetChar, ih]
    rfl
  | case2 => exact ⟨0, by decide, rfl⟩
  | case3 b4 => exact ⟨4, by decide, bitStream_alphabetChar ..⟩
  | case4 b4 b3 => exact ⟨3, by decide, bitStream_alphabetChar ..⟩
  | case5 b4 b3 b2 => exact ⟨2, by decide, bitStream_alphabetChar ..⟩
  | case6 b4 b3 b2 b1 => exact ⟨1, by decide, bitStream_alphabetChar ..⟩

theorem leadingByte_bitsOfByte (b : Byte) : leadingByte (bitsOfByte b) = b := by
  revert b; decide +kernel

/-- Packing the bits of a byte string gives the string back, whatever bits too few for a byte follow (R92). -/
theorem packBytes_flatMap_bitsOfByte (x : List Byte) {r : List Bool} (hr : r.length < 8) :
    packBytes (x.flatMap bitsOfByte ++ r) = x := by
  induction x with
  | nil => exact packBytes_of_length_lt hr
  | cons b x ih =>
    rw [List.flatMap_cons, List.append_assoc, packBytes_append (l := bitsOfByte b) (Nat.le_refl 8),
      leadingByte_bitsOfByte]
    exact congrArg (b :: ·) ih

/-- Decoding inverts the encoding (R96). -/
theorem decodedBytes_rfcText (x : List Byte) : decodedBytes (upperText (rfcText x)) = x := by
  obtain ⟨z, hz, hstream⟩ := bitStream_symbolsOfBits (x.flatMap bitsOfByte)
  rw [rfcText, upperText_symbolsOfBits, decodedBytes, hstream]
  exact packBytes_flatMap_bitsOfByte x (by simp; omega)

end Sys2Proof.Machine

/-! ## VALIDATE and DECODE -/

namespace Sys2Proof.Machine

/-! ### What a text command delivers or withholds -/

@[simp] theorem finish_outByte (s : State) (q : SeqState) (e : ECode) (j : Nat) :
    (s.finish q e).outByte j = s.outByte j := rfl

/-- The bytes of OUT_BUF behind those delivered are free (R90, R94). -/
theorem deliverOutput_outByte_free (s : State) (l : List Byte) (kv : Bool) {j : Nat} (hl : l.length ≤ j)
    (hj : j < 256) : (s.deliverOutput l kv).outByte j = Config.freeByte s.draws (0x200 + j) := by
  simp only [State.outByte, State.byteAt, deliverOutput_mem, deliverOutput_outFill, lookup_putBytes, lookup_forget]
  rw [if_neg (by omega), if_pos (by omega), if_pos (by omega)]

theorem deliverOutput_outBytes (s : State) (l : List Byte) (kv : Bool) :
    (s.deliverOutput l kv).outBytes l.length = l :=
  List.ext_getElem (by simp [State.outBytes]) fun j _ hj => by
    simp only [State.outBytes]
    rw [List.getElem_map, List.getElem_range, deliverOutput_outByte s l kv j hj]

theorem deliverOutput_outLen_toNat (s : State) {l : List Byte} (kv : Bool) (hl : l.length ≤ 256) :
    (s.deliverOutput l kv).outLen.toNat = l.length := by
  rw [deliverOutput_outLen, BitVec.toNat_ofNat, Nat.mod_eq_of_lt (by omega)]

/-- After a data error every byte of OUT_BUF is free (R97). -/
theorem withholdOutput_outByte (s : State) {j : Nat} (hj : j < 256) :
    s.withholdOutput.outByte j = Config.freeByte s.draws (0x200 + j) := by
  simp only [State.outByte, State.byteAt, withholdOutput_mem, withholdOutput_outFill, lookup_forget]
  rw [if_pos (by omega), if_pos (by omega)]

theorem text_getElem (s : State) {j : Nat} (hj : j < s.text.length) : s.text[j] = s.inByte j := by
  simp [State.text, State.inBytes]

/-! ### Errors -/

theorem finish_error (s : State) (q : SeqState) {e : ECode} (he : e ≠ .ok) :
    s.finish q e = { s with seq := q, done := true, err := true, ecode := e } := by
  rw [State.finish, decide_eq_true he]

/-- Only the engine gives ILLEGAL_CMD, outside `exec` (R75). -/
theorem exec_ne_illegalCmd {i : Instr} {s t : State} (h : exec i s = .next t) : t.ecode ≠ .illegalCmd := by
  rcases exec_cases h with ⟨e, he, rfl⟩ | ⟨e, -, -, he, rfl⟩ | ⟨-, -, -, rfl⟩ | ⟨u, -, -, rfl⟩
  · rintro rfl; simpa using checkError_mem he
  · rintro rfl; simpa using textError_mem he
  · exact ECode.noConfusion
  · exact ECode.noConfusion

/-- Settles O32: each outcome of `exec_cases` has result codes of its own, and `finish` writes SEQ and STATUS only. -/
theorem errorsChangeOnlyWhatIsListed : Obligations.ErrorsChangeOnlyWhatIsListed := by
  have hdisj : List.Disjoint [ECode.badLength, .noKey, .badStep, .badDigits] [.nonAscii, .invalidChar] := by simp
  refine ⟨fun s t h hill => ?_, fun i s t h => ?_⟩
  · rcases engineStep_cases s with ⟨i, -, he⟩ | ⟨r, -, he⟩ <;> rw [he] at h
    · exact absurd hill (exec_ne_illegalCmd h)
    · cases h; exact finish_error s .idle (by decide)
  · rcases exec_cases h with ⟨e, he, rfl⟩ | ⟨e, hc, -, he, rfl⟩ | ⟨-, -, -, rfl⟩ | ⟨u, -, -, rfl⟩
    · have hmem := checkError_mem he
      have hok : e ≠ .ok := by rintro rfl; simp at hmem
      refine ⟨fun _ => finish_error s .idle hok, ?_, ?_⟩
      · exact fun hdata => (hdisj hmem hdata).elim
      · rintro rfl; simp at hmem
    · have hmem := textError_mem he
      have hok : e ≠ .ok := by rintro rfl; simp at hmem
      refine ⟨?_, fun _ => ⟨finish_error s.withholdOutput .idle hok, fun j hj => withholdOutput_outByte s hj,
        fun a ha => withholdOutput_byteAt_other s ha⟩, ?_⟩
      · exact fun hcheck => (hdisj hcheck hmem).elim
      · rintro rfl; simp at hmem
    · exact ⟨by simp, by simp, fun _ => finish_error s.sampled .faulted (by decide)⟩
    · exact ⟨by simp, by simp, by simp⟩

/-! ### Success -/

/-- VALIDATE of a text over `[A-Za-z2-7]` delivers it upper-cased (R89). -/
theorem exec_validate_of_good {s : State} (hlen : s.inLen.toNat ≤ 256)
    (hgood : ∀ b ∈ s.text, base32Char b = true) :
    exec .validate s = .next ((s.deliverOutput (upperText s.text) false).finish .idle .ok) :=
  exec_of_succeeds (i := .validate) (lengthError_eq_none.2 hlen) ⟨textError_eq_none.2 hgood, rfl⟩

/-- DECODE of a text over `[A-Za-z2-7]` delivers its bytes (R93). -/
theorem exec_decode_of_good {s : State} (hlen : s.inLen.toNat ≤ 256)
    (hgood : ∀ b ∈ s.text, base32Char b = true) :
    exec .decode s = .next ((s.deliverOutput (decodedBytes (upperText s.text)) true).finish .idle .ok) :=
  exec_of_succeeds (i := .decode) (lengthError_eq_none.2 hlen) ⟨textError_eq_none.2 hgood, rfl⟩

/-- Settles O34: the text passes its checks, and the bytes delivered are those of the upper-cased text. -/
theorem validateDeliversTheUpperCasedText : Obligations.ValidateDeliversTheUpperCasedText := by
  intro s hlen hgood
  have hl : (upperText s.text).length = s.inLen.toNat := by rw [upperText_length, text_length]
  refine ⟨_, exec_validate_of_good hlen (forall_text.2 hgood), ?_, rfl, rfl, rfl, rfl, rfl, fun j hj => ?_,
    fun j hj hj' => ?_⟩
  · rw [finish_outLen, deliverOutput_outLen, hl]; simp
  · have hget : (upperText s.text)[j]'(hl ▸ hj) = upper (s.inByte j) := by simp [upperText, text_getElem]
    rw [finish_outByte, deliverOutput_outByte s _ _ j (hl ▸ hj), hget, upper_toNat (hgood j hj)]
  · rw [finish_outByte, deliverOutput_outByte_free s _ _ (hl ▸ hj) hj']

/-- Settles O35: byte `j` packs the stream's bits from `8j` on, and bit `k` of the stream belongs to symbol `k / 5`. -/
theorem decodeDeliversTheBitStream : Obligations.DecodeDeliversTheBitStream := by
  intro s hlen hgood
  have htext : ∀ b ∈ s.text, base32Char b = true := forall_text.2 hgood
  have hl : (decodedBytes (upperText s.text)).length = 5 * s.inLen.toNat / 8 := by
    rw [decodedBytes_length (inAlphabet_of_base32Char htext), upperText_length, text_length]
  refine ⟨_, exec_decode_of_good hlen htext, ?_, rfl, rfl, rfl, rfl, rfl, fun j hj p hp => ?_, fun j hj hj' => ?_⟩
  · rw [finish_outLen, deliverOutput_outLen_toNat _ _ (by omega), hl]
  · rw [finish_outByte, deliverOutput_outByte s _ _ j (hl ▸ hj),
      getLsbD_decodedBytes htext (hl ▸ hj) hp (by rw [text_length]; omega), text_getElem]
  · rw [finish_outByte, deliverOutput_outByte_free s _ _ (hl ▸ hj) hj']

/-- Settles O49: the encoding's bit stream is the string's bits and at most four zero bits, too few for a byte. -/
theorem decodeInvertsRfcEncoding : Obligations.DecodeInvertsRfcEncoding := by
  intro s x hlen (htext : s.text = rfcText x)
  have hgood : ∀ b ∈ s.text, base32Char b = true := by
    rw [htext]
    intro b hb
    obtain ⟨b4, b3, b2, b1, b0, rfl⟩ := symbolsOfBits_mem hb
    exact base32Char_alphabetChar ..
  have hx : decodedBytes (upperText s.text) = x := by rw [htext, decodedBytes_rfcText]
  have hle : x.length ≤ 256 := by
    have hxlen := decodedBytes_length (inAlphabet_of_base32Char hgood)
    rw [hx, upperText_length, text_length] at hxlen
    omega
  have hexec := exec_decode_of_good hlen hgood
  rw [hx] at hexec
  exact ⟨_, hexec, rfl, deliverOutput_outLen_toNat s true hle, deliverOutput_outBytes s x true⟩

/-! ### Case -/

theorem upper_sub_0x20 {b : Byte} (hlo : 0x61 ≤ b.toNat) (hhi : b.toNat ≤ 0x7A) :
    upper (b - 0x20#8) = upper b := by
  revert b; decide +kernel

theorem upper_upper (b : Byte) : upper (upper b) = upper b := by revert b; decide +kernel

theorem upper_ascii (b : Byte) : decide ((upper b).toNat < 0x80) = decide (b.toNat < 0x80) := by
  revert b; decide +kernel

/-- The data errors of a text are those of its upper-case form (R87, R96). -/
theorem textError_upperText (t : List Byte) : textError (upperText t) = textError t := by
  have ha : asciiText (upperText t) = asciiText t := by
    simp only [asciiText, upperText, List.all_map, Function.comp_def, upper_ascii]
  have hu : upperText (upperText t) = upperText t := by simp [upperText, upper_upper]
  rw [textError, ha, hu, textError]

/-- A command over a text ends in BAD_LENGTH, in its text's data error or in success (R147). -/
theorem exec_ecode_of_readsText {i : Instr} {s t : State} (hi : readsText i = true) (h : exec i s = .next t) :
    t.ecode = (s.lengthError.or (textError s.text)).getD .ok := by
  have hcheck := checkError_of_readsText s hi
  rcases exec_cases h with ⟨e, he, rfl⟩ | ⟨e, hc, -, he, rfl⟩ | ⟨-, hclk, -⟩ | ⟨u, hc, hu, rfl⟩
  · rw [← hcheck, he]; rfl
  · rw [← hcheck, hc, he]; rfl
  · rcases readsText_iff.1 hi with rfl | rfl <;> cases hclk
  · have htext : textError s.text = none := by rcases readsText_iff.1 hi with rfl | rfl <;> exact hu.1
    rw [← hcheck, hc, htext]; rfl

/-- Settles O47: every check and the output of DECODE read the text through its upper-case form. -/
theorem decodingIgnoresCase : Obligations.DecodingIgnoresCase := by
  intro s1 s2 t1 t2 hlen hcase h1 h2
  have hupper : upperText s1.text = upperText s2.text := by
    simp only [upperText, State.text, State.inBytes, List.map_map, ← hlen]
    refine List.map_congr_left fun j hj => ?_
    rcases hcase j (List.mem_range.1 hj) with heq | ⟨hlo, hhi, heq⟩
    · exact congrArg upper heq
    · exact ((congrArg upper heq).trans (upper_sub_0x20 hlo hhi)).symm
  have hcode : t1.ecode = t2.ecode := by
    rw [exec_ecode_of_readsText rfl h1, exec_ecode_of_readsText rfl h2, ← textError_upperText s1.text, hupper,
      textError_upperText, State.lengthError, State.lengthError, hlen]
  refine ⟨hcode, fun hok => ?_⟩
  obtain ⟨_, ⟨-, rfl⟩, rfl⟩ := exec_ok h1 hok
  obtain ⟨_, ⟨-, rfl⟩, rfl⟩ := exec_ok h2 (hcode ▸ hok)
  rw [hupper]
  refine ⟨rfl, fun j hj => ?_⟩
  have hj' : j < (decodedBytes (upperText s2.text)).length := by
    rw [finish_outLen, deliverOutput_outLen, BitVec.toNat_ofNat] at hj
    exact lt_of_lt_of_le hj (Nat.mod_le ..)
  rw [finish_outByte, finish_outByte, deliverOutput_outByte s1 _ _ j hj', deliverOutput_outByte s2 _ _ j hj']

end Sys2Proof.Machine

/-! ## The time step -/

namespace Sys2Proof.Machine

/-! ### The results in plain numbers -/

/-- A quotient of the clock reading fits 64 bits, so COUNTER is exact (R101). -/
theorem stepIndex_toNat (t st : DWord) : (stepIndex t st).toNat = t.toNat / st.toNat := by
  have hle : t.toNat / st.toNat ≤ t.toNat := Nat.div_le_self ..
  rw [stepIndex, BitVec.toNat_ofNat, Nat.mod_eq_of_lt (by omega)]

/-- A step size of at most 255 fits REMAIN's 8 bits, so REMAIN is exact (R101). -/
theorem remaining_toNat (t : DWord) {st : DWord} (h : st.toNat ≤ 255) :
    (remaining t st).toNat = st.toNat - t.toNat % st.toNat := by
  rw [remaining, BitVec.toNat_ofNat, Nat.mod_eq_of_lt (by omega)]

/-- Four byte lanes have the value of their base-256 digits (R52). -/
theorem packLanes_toNat (b0 b1 b2 b3 : Byte) : (packLanes b0 b1 b2 b3).toNat =
    b3.toNat * 2 ^ 24 + b2.toNat * 2 ^ 16 + b1.toNat * 2 ^ 8 + b0.toNat := by
  rw [packLanes, BitVec.toNat_append, BitVec.toNat_append, BitVec.toNat_append,
    ← Nat.shiftLeft_add_eq_or_of_lt b0.isLt, ← Nat.shiftLeft_add_eq_or_of_lt b1.isLt,
    ← Nat.shiftLeft_add_eq_or_of_lt b2.isLt]
  simp only [Nat.shiftLeft_eq]
  omega

/-- The window of R111 is the word of its four bytes, the first one masked. -/
theorem truncate_eq_packLanes (d : Digest) : truncate d =
    packLanes (truncWindow d 3) (truncWindow d 2) (truncWindow d 1) (truncWindow d 0 &&& 0x7F#8) := by
  apply BitVec.eq_of_getLsbD_eq
  intro j hj
  simp only [truncate, packLanes, BitVec.getLsbD_append, BitVec.getLsbD_or, BitVec.getLsbD_shiftLeft,
    BitVec.getLsbD_setWidth]
  interval_cases j <;> simp

theorem and_0x7F_toNat (b : Byte) : (b &&& 0x7F#8).toNat = b.toNat % 128 := by
  rw [BitVec.toNat_and]
  exact Nat.and_two_pow_sub_one_eq_mod _ 7

theorem truncOffset_eq (d : Digest) : truncOffset d = (d.byte 19).toNat % 16 := by
  rw [truncOffset, BitVec.toNat_and]
  exact Nat.and_two_pow_sub_one_eq_mod _ 4

/-- TRUNC holds the window's value whole: the mask keeps it below 2^31 (R111, R113). -/
theorem truncate_toNat (d : Digest) : ((truncate d).setWidth 31).toNat = windowValue d := by
  have h : (truncate d).toNat = windowValue d := by
    rw [truncate_eq_packLanes, packLanes_toNat, and_0x7F_toNat]
    simp only [truncWindow, truncOffset_eq]
    rfl
  rw [BitVec.toNat_setWidth, h, Nat.mod_eq_of_lt]
  rw [← h, truncate_eq_packLanes, packLanes_toNat, and_0x7F_toNat]
  omega

/-- CODE is exact: a residue of a 31-bit value fits 32 bits (R118). -/
theorem decimalCode_toNat (v : BitVec 31) (d : BitVec 8) : (decimalCode v d).toNat = v.toNat % 10 ^ d.toNat := by
  have hle : v.toNat % 10 ^ d.toNat ≤ v.toNat := Nat.mod_le ..
  rw [decimalCode, BitVec.toNat_ofNat, Nat.mod_eq_of_lt (by omega)]

/-- Step 1 leaves the bytes of R143 in DIGEST (R108, R110). -/
theorem deriveDigest_bytes (s : State) (k : KeySource) :
    (s.deriveDigest k).digest.bytes = s.hmacOver k s.counter := by
  rw [deriveDigest_digest, Digest.bytes_ofBytes _ (hmacSha1_length ..), hmacSha1_keyBytes]

/-! ### The checks that fail, and the outcomes they lead to -/

theorem lengthError_of_lt {s : State} (h : 256 < s.inLen.toNat) : s.lengthError = some .badLength := if_pos h

theorem keyError_outBuf_of_invalid {s : State} (h : s.kvalid = false) : s.keyError .outBuf = some .noKey := by
  simp [State.keyError, h]

theorem stepError_of_outside {s : State} (h : s.stepSize.toNat = 0 ∨ 255 < s.stepSize.toNat) :
    s.stepError = some .badStep := if_pos (h.imp_left (by omega))

theorem digitsError_of_outside {s : State} (h : s.digits.toNat = 0 ∨ 9 < s.digits.toNat) :
    s.digitsError = some .badDigits := if_pos (h.imp_left (by omega))

/-- A command whose checks find an error: the next state is `s` but for SEQ and STATUS (R147). -/
theorem exec_eq_of_checkError {i : Instr} {s : State} {e : ECode} (hc : checkError i s = some e) :
    exec i s = .next { s with seq := .idle, done := true, err := true, ecode := e } := by
  obtain ⟨t, ht⟩ := exec_next i s
  have hok : e ≠ .ok := by rintro rfl; simpa using checkError_mem hc
  rw [ht, exec_of_checkError hc ht, finish_error s .idle hok]

/-- A command that completes with success has passed its checks (R145). -/
theorem checkError_eq_none_of_ok {i : Instr} {s t : State} (h : exec i s = .next t) (hok : t.ecode = .ok) :
    checkError i s = none := by
  cases hc : checkError i s with
  | none => rfl
  | some e =>
    rw [exec_of_checkError hc h, finish_ecode] at hok
    simpa [hok] using checkError_mem hc

/-- A TSTEP or TOTP whose checks pass faults on a clock before the epoch: but for SEQ and STATUS only the sample is used up
(R155). -/
theorem exec_of_beforeEpoch {i : Instr} {s : State} (hi : readsClock i = true) (hc : checkError i s = none)
    (hclk : s.clockSample = .beforeEpoch) :
    exec i s = .next { s.sampled with seq := .faulted, done := true, err := true, ecode := .clockBeforeEpoch } := by
  obtain ⟨t, ht⟩ := exec_next i s
  rcases exec_cases ht with ⟨e, he, -⟩ | ⟨e, -, htext, -⟩ | ⟨-, -, -, rfl⟩ | ⟨u, -, hu, -⟩
  · rw [hc] at he; cases he
  · rcases readsText_iff.1 htext with rfl | rfl <;> cases hi
  · rw [ht, finish_error s.sampled .faulted (by decide)]
  · cases i with
    | tstep => obtain ⟨c, hsecs, -⟩ := hu; rw [hclk] at hsecs; cases hsecs
    | totp k => obtain ⟨c, hsecs, -⟩ := hu; rw [hclk] at hsecs; cases hsecs
    | _ => cases hi

/-! ### TSTEP and TOTP -/

/-- Settles O36: the check on STEP_SIZE, then one sample, whose quotient and residue fit their registers. -/
theorem tstepWritesTheTimeStep : Obligations.TstepWritesTheTimeStep := by
  intro s
  refine ⟨fun t h1 h2 hclk => ?_, fun hstep => ?_, fun h1 h2 hclk => ?_⟩
  · exact ⟨_, _, _, _, exec_of_succeeds (i := .tstep) (stepError_eq_none.2 ⟨h1, h2⟩) ⟨t, hclk, rfl⟩,
      stepIndex_toNat .., remaining_toNat _ h2⟩
  · exact exec_eq_of_checkError (i := .tstep) (stepError_of_outside hstep)
  · exact ⟨_, _, exec_of_beforeEpoch (i := .tstep) rfl (stepError_eq_none.2 ⟨h1, h2⟩) hclk⟩

/-- Steps 1 to 4 and their completion write DIGEST, TRUNC, CODE, SEQ and STATUS only (R119). -/
theorem finish_derivations (u : State) (k : KeySource) :
    (u.deriveDigest k).deriveTrunc.deriveCode.finish .idle .ok =
      { u with digest := (u.deriveDigest k).digest, trunc := (u.deriveDigest k).deriveTrunc.trunc,
               code := (u.deriveDigest k).deriveTrunc.deriveCode.code, seq := .idle, done := true, err := false,
               ecode := .ok } := rfl

/-- Step 1 after the time step hashes the key of `s` and the COUNTER just written (R101, R124). -/
theorem deriveDigest_writeTimeStep_bytes (s : State) (t : DWord) (k : KeySource) :
    ((s.sampled.writeTimeStep t).deriveDigest k).digest.bytes = s.hmacOver k (stepIndex t s.stepSize) := by
  have hkey : (s.sampled.writeTimeStep t).keyBytes k = s.keyBytes k := by cases k <;> rfl
  rw [deriveDigest_bytes, ← hmacSha1_keyBytes, hkey, hmacSha1_keyBytes, writeTimeStep_counter, sampled_stepSize]

/-- The checks of TOTP in their order (R147). -/
theorem checkError_totp (k : KeySource) (s : State) :
    checkError (.totp k) s = (s.keyError k).or (s.stepError.or s.digitsError) := rfl

theorem checkError_totp_eq_none {k : KeySource} {s : State} : checkError (.totp k) s = none ↔
    s.keyReady k ∧ (1 ≤ s.stepSize.toNat ∧ s.stepSize.toNat ≤ 255) ∧ 1 ≤ s.digits.toNat ∧ s.digits.toNat ≤ 9 := by
  rw [checkError_totp, Option.or_eq_none_iff, Option.or_eq_none_iff, keyError_eq_none, stepError_eq_none,
    digitsError_eq_none]

/-- Settles O41: the checks in order, then the time step, and steps 1 to 4 on the COUNTER it wrote. -/
theorem totpRunsTheWholeContract : Obligations.TotpRunsTheWholeContract := by
  intro k s
  refine ⟨fun t hk h1 h2 d1 d2 hclk => ?_, ?_, ?_, fun hk hstep => ?_, fun hk h1 h2 hdig => ?_,
    fun hk h1 h2 d1 d2 hclk => ?_⟩
  · have hc : checkError (.totp k) s = none := checkError_totp_eq_none.2 ⟨hk, ⟨h1, h2⟩, d1, d2⟩
    have hexec := exec_of_succeeds (i := .totp k) hc ⟨t, hclk, rfl⟩
    rw [finish_derivations] at hexec
    exact ⟨_, _, _, _, _, _, _, hexec, stepIndex_toNat .., remaining_toNat _ h2,
      deriveDigest_writeTimeStep_bytes s t k, truncate_toNat _, decimalCode_toNat ..⟩
  · rintro rfl hlen
    refine exec_eq_of_checkError ?_
    rw [checkError_totp, State.keyError, lengthError_of_lt hlen, Option.some_or]
  · rintro rfl hkv
    refine exec_eq_of_checkError ?_
    rw [checkError_totp, keyError_outBuf_of_invalid hkv, Option.some_or]
  · refine exec_eq_of_checkError ?_
    rw [checkError_totp, keyError_eq_none.2 hk, stepError_of_outside hstep, Option.none_or, Option.some_or]
  · refine exec_eq_of_checkError ?_
    rw [checkError_totp, keyError_eq_none.2 hk, stepError_eq_none.2 ⟨h1, h2⟩, digitsError_of_outside hdig,
      Option.none_or, Option.none_or]
  · have hc : checkError (.totp k) s = none := checkError_totp_eq_none.2 ⟨hk, ⟨h1, h2⟩, d1, d2⟩
    exact ⟨_, _, exec_of_beforeEpoch rfl hc hclk⟩

/-! ### One sample -/

/-- What a TSTEP or TOTP that succeeds makes of its one sample (R101, R104). -/
theorem succeeds_clock {i : Instr} {s u : State} (hi : readsClock i = true) (h : Succeeds i s u) :
    s.clockSample = .secs u.time ∧ u.counter = stepIndex u.time s.stepSize ∧
      u.remain = remaining u.time s.stepSize ∧ u.clkNext = none ∧ u.draws = s.draws + 1 := by
  cases i with
  | tstep => obtain ⟨c, hclk, rfl⟩ := h; exact ⟨hclk, rfl, rfl, rfl, rfl⟩
  | totp k => obtain ⟨c, hclk, rfl⟩ := h; exact ⟨hclk, rfl, rfl, rfl, rfl⟩
  | _ => cases hi

/-- The other commands leave the premise on the next sample unused (R104). -/
theorem succeeds_clkNext {i : Instr} {s u : State} (hi : readsClock i = false) (h : Succeeds i s u) :
    u.clkNext = s.clkNext := by
  cases i with
  | tstep => cases hi
  | totp k => cases hi
  | validate => obtain ⟨-, rfl⟩ := h; rfl
  | decode => obtain ⟨-, rfl⟩ := h; rfl
  | _ => cases h; rfl

/-- Settles O53: errors come before the sample, the fault and success after it, and only TSTEP and TOTP take it. -/
theorem timedCommandsTakeExactlyOneSample : Obligations.TimedCommandsTakeExactlyOneSample := by
  intro i s t h
  rcases exec_cases h with ⟨e, he, rfl⟩ | ⟨e, -, -, he, rfl⟩ | ⟨-, hi, hclk, rfl⟩ | ⟨u, -, hu, rfl⟩
  · have hmem := checkError_mem he
    exact ⟨by rintro ⟨-, rfl | rfl⟩ <;> simp at hmem, fun _ => rfl⟩
  · have hmem := textError_mem he
    exact ⟨by rintro ⟨-, rfl | rfl⟩ <;> simp at hmem, fun _ => rfl⟩
  · exact ⟨fun _ => ⟨rfl, rfl, ECode.noConfusion, fun _ => hclk⟩, fun hn => (hn ⟨hi, .inr rfl⟩).elim⟩
  · by_cases hi : readsClock i = true
    · obtain ⟨hclk, -, -, hnone, hdraws⟩ := succeeds_clock hi hu
      exact ⟨fun _ => ⟨hnone, hdraws, fun _ => hclk, ECode.noConfusion⟩, fun hn => (hn ⟨hi, .inl rfl⟩).elim⟩
    · refine ⟨fun ⟨hi', _⟩ => (hi hi').elim, fun _ => ?_⟩
      exact (finish_clkNext ..).trans (succeeds_clkNext (by simpa using hi) hu)

/-! ### COUNTER and REMAIN as functions of the clock -/

/-- A TSTEP or TOTP that succeeds had a step size of 1 to 255, and its COUNTER and REMAIN are R100's numbers. -/
theorem exec_timeStep {i : Instr} {s u : State} {t : DWord} (hi : readsClock i = true) (hclk : s.clockSample = .secs t)
    (h : exec i s = .next u) (hok : u.ecode = .ok) :
    1 ≤ s.stepSize.toNat ∧ u.counter.toNat = t.toNat / s.stepSize.toNat ∧
      u.remain.toNat = s.stepSize.toNat - t.toNat % s.stepSize.toNat := by
  obtain ⟨h1, h2⟩ := stepSize_of_checkError_none hi (checkError_eq_none_of_ok h hok)
  obtain ⟨v, hv, rfl⟩ := exec_ok h hok
  obtain ⟨hsecs, hcounter, hremain, -, -⟩ := succeeds_clock hi hv
  obtain rfl : t = v.time := by rw [hclk] at hsecs; injection hsecs
  rw [finish_counter, finish_remain, hcounter, hremain]
  exact ⟨h1, stepIndex_toNat .., remaining_toNat _ h2⟩

/-- Away from a multiple of `s` the residue grows by one with the number. -/
theorem mod_add_one_of_ne_zero {n s : Nat} (h : (n + 1) % s ≠ 0) : (n + 1) % s = n % s + 1 := by
  have hdiv : (n + 1) / s = n / s := Nat.succ_div_of_not_dvd fun hd => h (Nat.mod_eq_zero_of_dvd hd)
  have hn := Nat.div_add_mod n s
  have hsucc := Nat.div_add_mod (n + 1) s
  rw [hdiv] at hsucc
  omega

/-- Settles O50: the residue lies in [0, s), and grows by one with the clock until the step ends. -/
theorem remainCountsDownWithinAStep : Obligations.RemainCountsDownWithinAStep := by
  intro i s u t hi hclk h hok
  obtain ⟨hpos, -, hr⟩ := exec_timeStep hi hclk h hok
  have hlt : t.toNat % s.stepSize.toNat < s.stepSize.toNat := Nat.mod_lt _ hpos
  refine ⟨by omega, by omega, by omega, fun s' u' t' hst hclk' hsucc hne h' hok' => ?_⟩
  obtain ⟨-, -, hr'⟩ := exec_timeStep hi hclk' h' hok'
  rw [hst] at hr'
  have hlt' : t'.toNat % s.stepSize.toNat < s.stepSize.toNat := Nat.mod_lt _ hpos
  have hgrow : t'.toNat % s.stepSize.toNat = t.toNat % s.stepSize.toNat + 1 := by
    rw [hsucc] at hne ⊢
    exact mod_add_one_of_ne_zero hne
  omega

/-- Quotients by `s` differ exactly when a multiple of `s` lies above the one number and not above the other. -/
theorem div_ne_div_iff_exists_multiple {a b s : Nat} (hs : 0 < s) (hab : a ≤ b) :
    a / s ≠ b / s ↔ ∃ m, a < m * s ∧ m * s ≤ b := by
  have hle : a / s ≤ b / s := Nat.div_le_div_right hab
  simp only [← Nat.div_lt_iff_lt_mul hs, ← Nat.le_div_iff_mul_le hs]
  exact ⟨fun hne => ⟨b / s, by omega, le_rfl⟩, fun ⟨m, hlo, hhi⟩ => by omega⟩

/-- Settles O51: COUNTER is the quotient of the clock reading by the step size. -/
theorem counterChangesOnlyAtStepBoundaries : Obligations.CounterChangesOnlyAtStepBoundaries := by
  intro i s1 s2 u1 u2 t1 t2 hi hst hclk1 hclk2 h1 h2 hok1 hok2 hle
  obtain ⟨hpos, hc1, -⟩ := exec_timeStep hi hclk1 h1 hok1
  obtain ⟨-, hc2, -⟩ := exec_timeStep hi hclk2 h2 hok2
  rw [← hst] at hc2
  rw [← BitVec.toNat_ne_iff_ne, hc1, hc2]
  exact ⟨Nat.div_le_div_right hle, div_ne_div_iff_exists_multiple hpos hle⟩

end Sys2Proof.Machine

/-! ## Code generation -/

namespace Sys2Proof.Machine

/-! ### TSTEP and TOTP alone read the clock -/

theorem readsClock_iff {i : Instr} : readsClock i = true ↔ i = .tstep ∨ ∃ k, i = .totp k := by
  cases i <;> simp [readsClock]

/-- The checks 2 to 5 read no clock (R147). -/
theorem checkError_withClkNext (i : Instr) (s : State) (r : Option ClockReading) :
    checkError i { s with clkNext := r } = checkError i s := by
  cases i <;> rfl

/-- The effect of a command that samples no clock is the same under every premise on the clock (R127). -/
theorem succeeds_withClkNext {i : Instr} {s u : State} (r : Option ClockReading) (hi : readsClock i = false)
    (h : Succeeds i s u) : Succeeds i { s with clkNext := r } { u with clkNext := r } := by
  cases i with
  | tstep => cases hi
  | totp k => cases hi
  | validate => obtain ⟨ht, rfl⟩ := h; exact ⟨ht, rfl⟩
  | decode => obtain ⟨ht, rfl⟩ := h; exact ⟨ht, rfl⟩
  | _ => cases h; rfl

/-- A VALIDATE or DECODE whose text has a data error ends in it and withholds its output (R97). -/
theorem exec_of_textError {i : Instr} {s : State} {e : ECode} (hc : checkError i s = none) (hi : readsText i = true)
    (he : textError s.text = some e) : exec i s = .next (s.withholdOutput.finish .idle e) := by
  rw [checkError_of_readsText s hi] at hc
  rcases readsText_iff.1 hi with rfl | rfl <;> simp [exec, execValidate, execDecode, State.textCommand, hc, he]

/-- A command that samples no clock does the same under every premise on it, and leaves the premise as it was (R127). -/
theorem exec_withClkNext {i : Instr} {s t : State} (r : Option ClockReading) (hi : readsClock i = false)
    (h : exec i s = .next t) : exec i { s with clkNext := r } = .next { t with clkNext := r } := by
  have hcheck := checkError_withClkNext i s r
  rcases exec_cases h with ⟨e, hc, rfl⟩ | ⟨e, hc, htext, he, rfl⟩ | ⟨-, hclock, -⟩ | ⟨u, hc, hu, rfl⟩
  · obtain ⟨t, ht⟩ := exec_next i { s with clkNext := r }
    rw [ht, exec_of_checkError (hcheck.trans hc) ht]
    rfl
  · exact exec_of_textError (hcheck.trans hc) htext he
  · rw [hi] at hclock; cases hclock
  · exact exec_of_succeeds (hcheck.trans hc) (succeeds_withClkNext r hi hu)

/-- Settles O18: of the outcomes of `exec_cases` only the clock's fault enters FAULTED. -/
theorem onlyTstepAndTotpReadTheClockOrFault : Obligations.OnlyTstepAndTotpReadTheClockOrFault := by
  intro i s t h
  refine ⟨fun hf => ?_, fun ⟨hts, htotp⟩ r => exec_withClkNext r ?_ h⟩
  · rcases exec_cases h with ⟨e, -, rfl⟩ | ⟨e, -, -, -, rfl⟩ | ⟨-, hclock, -, -⟩ | ⟨u, -, -, rfl⟩
    · cases hf
    · cases hf
    · exact readsClock_iff.1 hclock
    · cases hf
  · rw [← Bool.not_eq_true, readsClock_iff]
    rintro (rfl | ⟨k, rfl⟩)
    · exact hts rfl
    · exact htotp k rfl

/-! ### HMAC, TRUNC and MODC -/

theorem exec_hmac_of_keyReady {k : KeySource} {s : State} (hk : s.keyReady k) :
    exec (.hmac k) s = .next ((s.deriveDigest k).finish .idle .ok) :=
  exec_of_succeeds (u := s.deriveDigest k) (keyError_eq_none.2 hk) rfl

/-- TRUNC has no check (R112). -/
theorem exec_trunc (s : State) : exec .trunc s = .next (s.deriveTrunc.finish .idle .ok) := rfl

theorem exec_modc_of_digits {s : State} (hd : s.digitsError = none) :
    exec .modc s = .next (s.deriveCode.finish .idle .ok) :=
  exec_of_succeeds (u := s.deriveCode) hd rfl

/-- Settles O37: the check on the key, then step 1. -/
theorem hmacWritesTheDigest : Obligations.HmacWritesTheDigest := fun k s =>
  ⟨fun hk => ⟨_, exec_hmac_of_keyReady hk, deriveDigest_bytes s k⟩,
    fun hlen => exec_eq_of_checkError (i := .hmac .inBuf) (lengthError_of_lt hlen),
    fun hkv => exec_eq_of_checkError (i := .hmac .outBuf) (keyError_outBuf_of_invalid hkv)⟩

/-- Settles O38: TRUNC's 31 bits hold the window's value whole. -/
theorem truncSelectsTheWindow : Obligations.TruncSelectsTheWindow := fun s =>
  ⟨_, exec_trunc s, truncate_toNat s.digest⟩

/-- Settles O39: the check on DIGITS, then step 4, whose residue fits CODE. -/
theorem modcReducesByDigits : Obligations.ModcReducesByDigits := fun s =>
  ⟨fun d1 d2 => ⟨_, exec_modc_of_digits (digitsError_eq_none.2 ⟨d1, d2⟩), decimalCode_toNat s.trunc s.digits⟩,
    fun hdig => exec_eq_of_checkError (i := .modc) (digitsError_of_outside hdig)⟩

/-! ### CODE -/

/-- The checks of CODE in their order (R121, R147). -/
theorem checkError_code (k : KeySource) (s : State) : checkError (.code k) s = (s.keyError k).or s.digitsError := rfl

/-- With its key there, CODE has the check on DIGITS left (R121). -/
theorem checkError_code_of_keyReady {k : KeySource} {s : State} (hk : s.keyReady k) :
    checkError (.code k) s = s.digitsError := by
  rw [checkError_code, keyError_eq_none.2 hk, Option.none_or]

/-- Without its key, CODE ends in the key's error, whatever DIGITS is (R121). -/
theorem checkError_code_of_keyError {k : KeySource} {s : State} {e : ECode} (he : s.keyError k = some e) :
    checkError (.code k) s = some e := by
  rw [checkError_code, he, Option.some_or]

theorem exec_code_of_digits {k : KeySource} {s : State} (hk : s.keyReady k) (hd : s.digitsError = none) :
    exec (.code k) s = .next ((s.deriveDigest k).deriveTrunc.deriveCode.finish .idle .ok) :=
  exec_of_succeeds (u := (s.deriveDigest k).deriveTrunc.deriveCode)
    ((checkError_code_of_keyReady hk).trans hd) rfl

/-- Settles O40: the checks in order, then steps 1 to 4 at the COUNTER of `s`. -/
theorem codeRunsStepsOneToFour : Obligations.CodeRunsStepsOneToFour := by
  intro k s
  refine ⟨fun hk d1 d2 => ?_, ?_, ?_, fun hk hdig => ?_⟩
  · have hexec := exec_code_of_digits hk (digitsError_eq_none.2 ⟨d1, d2⟩)
    rw [finish_derivations] at hexec
    exact ⟨_, _, _, hexec, deriveDigest_bytes s k, truncate_toNat _, decimalCode_toNat ..⟩
  · rintro rfl hlen
    exact exec_eq_of_checkError (checkError_code_of_keyError (lengthError_of_lt hlen))
  · rintro rfl hkv
    exact exec_eq_of_checkError (checkError_code_of_keyError (keyError_outBuf_of_invalid hkv))
  · exact exec_eq_of_checkError ((checkError_code_of_keyReady hk).trans (digitsError_of_outside hdig))

/-- HMAC and TRUNC leave DIGITS, so MODC after them makes the check that CODE makes on it (R122). -/
theorem digitsError_after_trunc (s : State) (k : KeySource) :
    (((s.deriveDigest k).finish .idle .ok).deriveTrunc.finish .idle .ok).digitsError = s.digitsError := rfl

/-- Settles O44: MODC after HMAC and TRUNC, and CODE, make the same check on DIGITS and derive the same results. -/
theorem codeEqualsHmacThenTruncThenModc : Obligations.CodeEqualsHmacThenTruncThenModc := by
  intro k s s1 s2 s3 t hk h1 h2 h3 ht
  cases (exec_hmac_of_keyReady hk).symm.trans h1
  cases (exec_trunc _).symm.trans h2
  refine ⟨fun hd => ?_, fun hd => ?_⟩
  · have hok : s.digitsError = none := digitsError_eq_none.2 hd
    cases (exec_modc_of_digits ((digitsError_after_trunc s k).trans hok)).symm.trans h3
    cases (exec_code_of_digits hk hok).symm.trans ht
    rfl
  · have hbad : s.digitsError = some .badDigits := digitsError_of_outside (by omega)
    obtain rfl := exec_of_checkError (i := .modc) ((digitsError_after_trunc s k).trans hbad) h3
    obtain rfl := exec_of_checkError ((checkError_code_of_keyReady hk).trans hbad) ht
    exact ⟨rfl, rfl, rfl, rfl, rfl, rfl⟩

/-! ### TOTP within a step -/

theorem keyBytes_eq_map (s : State) (k : KeySource) : s.keyBytes k = (List.range (s.keyLen k)).map (s.keyByte k) := by
  cases k <;> rfl

/-- A key is its length and its bytes, wherever it is read from (R73). -/
theorem keyBytes_congr {s1 s2 : State} {k1 k2 : KeySource} (hlen : s1.keyLen k1 = s2.keyLen k2)
    (hbytes : ∀ j < s1.keyLen k1, s1.keyByte k1 j = s2.keyByte k2 j) : s1.keyBytes k1 = s2.keyBytes k2 := by
  rw [keyBytes_eq_map, keyBytes_eq_map, ← hlen]
  exact List.map_congr_left fun j hj => hbytes j (List.mem_range.1 hj)

/-- The time step leaves the key as it was (R101, R109). -/
theorem keyBytes_writeTimeStep (s : State) (t : DWord) (k : KeySource) :
    (s.sampled.writeTimeStep t).keyBytes k = s.keyBytes k := by
  cases k <;> rfl

/-- All clock readings of one step have the same end of the step, the reading and what remains of the step (R100, R126). -/
theorem sub_mod_add_congr {a b n : Nat} (hn : 0 < n) (h : a / n = b / n) : n - a % n + a = n - b % n + b := by
  have ha := Nat.div_add_mod a n
  have hb := Nat.div_add_mod b n
  have hlta := Nat.mod_lt a hn
  have hltb := Nat.mod_lt b hn
  rw [h] at ha
  omega

/-- Settles O45: COUNTER is the quotient, DIGEST reads the key and COUNTER, and each later step what the one before wrote. -/
theorem totpIsRepeatableWithinAStep : Obligations.TotpIsRepeatableWithinAStep := by
  intro k1 k2 s1 s2 t1 t2 c1 c2 hlen hbytes hstep hdig hclk1 hclk2 hdiv h1 h2 hok1 hok2
  obtain ⟨hpos, hctr1, hrem1⟩ := exec_timeStep rfl hclk1 h1 hok1
  obtain ⟨-, hctr2, hrem2⟩ := exec_timeStep rfl hclk2 h2 hok2
  rw [← hstep] at hctr2 hrem2
  have hctr : t1.counter = t2.counter := BitVec.eq_of_toNat_eq (by rw [hctr1, hctr2, hdiv])
  refine ⟨hctr, ?_⟩
  rw [hrem1, hrem2]
  obtain ⟨_, ⟨d1, -, rfl⟩, rfl⟩ := exec_ok h1 hok1
  obtain ⟨_, ⟨d2, -, rfl⟩, rfl⟩ := exec_ok h2 hok2
  have hdigest : ((s1.sampled.writeTimeStep d1).deriveDigest k1).digest =
      ((s2.sampled.writeTimeStep d2).deriveDigest k2).digest := by
    rw [deriveDigest_digest, deriveDigest_digest, keyBytes_writeTimeStep, keyBytes_writeTimeStep,
      keyBytes_congr hlen hbytes]
    exact congrArg (fun c => Digest.ofBytes (hmacSha1 _ (hmacMessage c))) hctr
  refine ⟨hdigest, ?_, ?_, sub_mod_add_congr hpos hdiv⟩ <;> simp [-deriveDigest_digest, hdigest, hdig]

end Sys2Proof.Machine

/-! ## SHA-1 and the HMAC key -/

namespace Sys2Proof.Machine

/-! ### Padding -/

/-- A byte of the low 64 bits of `n` is that byte of `n`: a length of 2^64 bits or more wraps in its top byte only (R132). -/
theorem ofNat_byte_mod_two_pow_64 (n : Nat) {j : Nat} (hj : j < 8) :
    BitVec.ofNat 8 (n % 2 ^ 64 / 256 ^ (7 - j)) = BitVec.ofNat 8 (n / 256 ^ (7 - j)) := by
  have hsplit : 2 ^ 64 = 256 ^ (7 - j) * 256 ^ (j + 1) := by
    rw [← pow_add, show 7 - j + (j + 1) = 8 by omega]
    norm_num
  apply BitVec.eq_of_toNat_eq
  rw [hsplit, Nat.mod_mul_right_div_self, BitVec.toNat_ofNat, BitVec.toNat_ofNat]
  exact Nat.mod_mod_of_dvd _ (Dvd.intro_left (256 ^ j) rfl)

/-- The big-endian encoding of a number's low 64 bits, byte by byte from the number itself (R132). -/
theorem bigEndian64_ofNat (n : Nat) :
    bigEndian64 (BitVec.ofNat 64 n) = (List.range 8).map fun j => BitVec.ofNat 8 (n / 256 ^ (7 - j)) := by
  have hbytes := hmacMessage_eq (BitVec.ofNat 64 n)
  rw [hmacMessage, BitVec.toNat_ofNat] at hbytes
  rw [hbytes]
  exact List.map_congr_left fun j hj => ofNat_byte_mod_two_pow_64 n (List.mem_range.1 hj)

theorem padMessage_length (m : List Byte) : (padMessage m).length = m.length + 1 + zeroPadding m.length + 8 := by
  simp [padMessage]; omega

/-- Settles O54: `zeroPadding` is the number of zero bytes that brings the length to 56 mod 64. -/
theorem paddedMessageIsWholeBlocks : Obligations.PaddedMessageIsWholeBlocks := by
  intro m
  refine ⟨?_, zeroPadding m.length, zeroPadding_lt _, ?_⟩
  · rw [padMessage_length, zeroPadding]
    omega
  · rw [padMessage, bigEndian64_ofNat]
    simp

/-! ### The prepared key -/

theorem hmacKeyBlock_of_le {k : List Byte} (h : k.length ≤ 64) :
    hmacKeyBlock k = k ++ List.replicate (64 - k.length) 0#8 := if_pos h

theorem hmacKeyBlock_of_lt {k : List Byte} (h : 64 < k.length) :
    hmacKeyBlock k = sha1 k ++ List.replicate 44 0#8 := if_neg (Nat.not_le.2 h)

/-- Settles O55: the prepared key is `hmacKeyBlock`, whose two branches both fill up to 64 bytes. -/
theorem preparedKeyIsOneBlock : Obligations.PreparedKeyIsOneBlock := by
  intro k
  rw [prepareKey_eq]
  refine ⟨?_, hmacKeyBlock_of_le, hmacKeyBlock_of_lt⟩
  rcases Nat.lt_or_ge 64 k.length with h | h
  · rw [hmacKeyBlock_of_lt h, List.length_append, sha1_length, List.length_replicate]
  · rw [hmacKeyBlock_of_le h, List.length_append, List.length_replicate]
    omega

/-! ### The message schedule -/

/-- The word that follows a schedule held newest first (R136). -/
def nextScheduleWord (ws : List Word) : Word :=
  rotl 1 (ws.getD 2 0#32 ^^^ ws.getD 7 0#32 ^^^ ws.getD 13 0#32 ^^^ ws.getD 15 0#32)

/-- The word extended last stands in front, computed from all the words before it. -/
theorem extendSchedule_succ (n : Nat) (ws : List Word) :
    extendSchedule (n + 1) ws = nextScheduleWord (extendSchedule n ws) :: extendSchedule n ws := by
  induction n generalizing ws with
  | zero => rfl
  | succ n ih => exact ih (nextScheduleWord ws :: ws)

@[simp] theorem extendSchedule_length (n : Nat) (ws : List Word) : (extendSchedule n ws).length = n + ws.length := by
  induction n with
  | zero => simp [extendSchedule]
  | succ n ih => rw [extendSchedule_succ, List.length_cons, ih]; omega

/-- Later words leave the earlier ones where they were, counted from the old end. -/
theorem extendSchedule_drop (n m : Nat) (ws : List Word) :
    (extendSchedule (m + n) ws).drop n = extendSchedule m ws := by
  induction n with
  | zero => rfl
  | succ n ih => rw [← Nat.add_assoc, extendSchedule_succ, List.drop_succ_cons, ih]

theorem rotl_one_eq_rotateLeft (x : Word) : rotl 1 x = x.rotateLeft 1 := rfl

theorem schedule_length {block : List Word} (hb : block.length = 16) : (schedule block).length = 80 := by
  simp [schedule, hb]

/-- Word `t` of the schedule stands in the schedule as it was after any `m` extensions that reach it, newest word first. -/
theorem schedule_getElem? {block : List Word} (hb : block.length = 16) {t m : Nat} (hm : m ≤ 64) (ht : t < m + 16) :
    (schedule block)[t]? = (extendSchedule m block.reverse)[m + 15 - t]? := by
  have hlen : t < (extendSchedule 64 block.reverse).length := by simp [hb]; omega
  have hdrop := extendSchedule_drop (64 - m) m block.reverse
  rw [Nat.add_sub_cancel' hm] at hdrop
  rw [schedule, List.getElem?_reverse hlen, ← hdrop, List.getElem?_drop, extendSchedule_length, List.length_reverse, hb]
  congr 1
  omega

/-- Settles O56: the words before `t` are the newest of the schedule after `t - 16` extensions, and one more gives word `t`. -/
theorem scheduleFollowsItsRecurrence : Obligations.ScheduleFollowsItsRecurrence := by
  intro block hb
  refine ⟨schedule_length hb, fun t ht => ?_, fun t hlo hhi a b c d ha hb' hc hd => ?_⟩
  · rw [schedule_getElem? hb (Nat.zero_le 64) (by omega), extendSchedule, List.getElem?_reverse (by omega), hb]
    congr 1
    omega
  · obtain ⟨n, rfl⟩ := Nat.exists_eq_add_of_le' hlo
    have hprev : ∀ k, 1 ≤ k → k ≤ 16 →
        (schedule block)[n + 16 - k]? = (extendSchedule n block.reverse)[k - 1]? := fun k h1 h16 => by
      rw [schedule_getElem? hb (m := n) (by omega) (by omega)]
      congr 1
      omega
    rw [hprev _ (by omega) (by omega)] at ha hb' hc hd
    rw [schedule_getElem? hb (m := n + 1) (by omega) (by omega), extendSchedule_succ, ← rotl_one_eq_rotateLeft,
      Nat.sub_self, List.getElem?_cons_zero]
    simp [nextScheduleWord, List.getD_eq_getElem?_getD, ha, hb', hc, hd]

/-! ### The check values -/

/-- Settles O57, by running the hash on both strings in the kernel. -/
theorem sha1CheckValues : Obligations.Sha1CheckValues := by
  unfold Obligations.Sha1CheckValues
  decide +kernel

end Sys2Proof.Machine

/-! ## Exceptions: the outcomes, the order of the checks, and FAULTED -/

namespace Sys2Proof.Machine

/-! ### The three outcomes -/

/-- Settles O30: each outcome of `exec_cases` is one `finish`, and its result code names the outcome. -/
theorem everyCommandEndsInOneOfThreeOutcomes : Obligations.EveryCommandEndsInOneOfThreeOutcomes := by
  intro i s
  have herror (u : State) {e : ECode} (hok : e ≠ .ok) (hclk : e ≠ .clockBeforeEpoch) :
      (u.finish .idle e).seq = .idle ∧ (u.finish .idle e).err = true ∧
        (u.finish .idle e).ecode ≠ .ok ∧ (u.finish .idle e).ecode ≠ .clockBeforeEpoch :=
    ⟨rfl, decide_eq_true hok, hok, hclk⟩
  obtain ⟨t, h⟩ := exec_next i s
  refine ⟨t, h, ?_⟩
  rcases exec_cases h with ⟨e, he, rfl⟩ | ⟨e, -, -, he, rfl⟩ | ⟨-, -, -, rfl⟩ | ⟨u, -, -, rfl⟩
  · have hmem := checkError_mem he
    exact ⟨rfl, .inr (.inl (herror s (ne_of_mem_of_not_mem hmem (by decide)) (ne_of_mem_of_not_mem hmem (by decide))))⟩
  · have hmem := textError_mem he
    exact ⟨rfl, .inr (.inl (herror _ (ne_of_mem_of_not_mem hmem (by decide)) (ne_of_mem_of_not_mem hmem (by decide))))⟩
  · exact ⟨rfl, .inr (.inr ⟨rfl, rfl, rfl⟩)⟩
  · exact ⟨rfl, .inl ⟨rfl, rfl, rfl⟩⟩

/-! ### The order of the checks -/

theorem keyError_eq_ite (s : State) (k : KeySource) : s.keyError k =
    if k = .inBuf ∧ 256 < s.inLen.toNat then some .badLength
    else if k = .outBuf ∧ s.kvalid = false then some .noKey
    else none := by
  cases k with
  | inBuf => simp [State.keyError, State.lengthError]
  | outBuf => cases hk : s.kvalid <;> simp [State.keyError, hk]

theorem stepError_eq_ite (s : State) : s.stepError =
    if ¬ (1 ≤ s.stepSize.toNat ∧ s.stepSize.toNat ≤ 255) then some .badStep else none :=
  if_congr (by omega) rfl rfl

theorem digitsError_eq_ite (s : State) : s.digitsError =
    if ¬ (1 ≤ s.digits.toNat ∧ s.digits.toNat ≤ 9) then some .badDigits else none :=
  if_congr (by omega) rfl rfl

/-- The checks 2 to 5 in the order of R147, each for the commands that it applies to. -/
theorem checkError_eq_ite (i : Instr) (s : State) : checkError i s =
    if readsInBuf i = true ∧ 256 < s.inLen.toNat then some .badLength
    else if readsOutBuf i = true ∧ s.kvalid = false then some .noKey
    else if readsClock i = true ∧ ¬ (1 ≤ s.stepSize.toNat ∧ s.stepSize.toNat ≤ 255) then some .badStep
    else if readsDigits i = true ∧ ¬ (1 ≤ s.digits.toNat ∧ s.digits.toNat ≤ 9) then some .badDigits
    else none := by
  cases i with
  | code k =>
    simp only [checkError, keyError_eq_ite, digitsError_eq_ite, readsInBuf, readsOutBuf, readsClock, readsDigits,
      decide_eq_true_eq, Bool.false_eq_true, true_and, false_and, if_false]
    split_ifs <;> rfl
  | totp k =>
    simp only [checkError, keyError_eq_ite, stepError_eq_ite, digitsError_eq_ite, readsInBuf, readsOutBuf, readsClock,
      readsDigits, decide_eq_true_eq, true_and]
    split_ifs <;> rfl
  | _ =>
    simp [checkError, State.lengthError, keyError_eq_ite, stepError_eq_ite, digitsError_eq_ite, readsInBuf, readsOutBuf,
      readsClock, readsDigits]

/-- The checks 6 and 7 of a text, in the order of R147. -/
theorem textError_eq_ite (s : State) : textError s.text =
    if ∃ j < s.inLen.toNat, 0x80 ≤ (s.inByte j).toNat then some .nonAscii
    else if ∃ j < s.inLen.toNat, base32Char (s.inByte j) = false then some .invalidChar
    else none := by
  have hascii := textError_eq_nonAscii (t := s.text)
  have hgood := textError_eq_none (t := s.text)
  rw [exists_text] at hascii
  rw [forall_text] at hgood
  rcases textError_cases s.text with h | h | ⟨h, -, -⟩
  · rw [h, if_pos (hascii.1 h)]
  · have hna : textError s.text ≠ some .nonAscii := by simp [h]
    have hbad : textError s.text ≠ none := by simp [h]
    rw [h, if_neg (mt hascii.2 hna), if_pos (by simpa using mt hgood.2 hbad)]
  · have hna : textError s.text ≠ some .nonAscii := by simp [h]
    rw [h, if_neg (mt hascii.2 hna), if_neg (by simpa using hgood.1 h)]

/-- A command over a text samples no clock (R147). -/
theorem readsClock_of_readsText {i : Instr} (h : readsText i = true) : readsClock i = false := by
  rcases readsText_iff.1 h with rfl | rfl <;> rfl

/-- The list of R147 through the machine's own checks: 2 to 5, then a text's data errors, or else the clock. -/
theorem expectedCode_eq (i : Instr) (s : State) : expectedCode i s =
    (checkError i s).getD
      (if readsText i = true then (textError s.text).getD .ok
       else if readsClock i = true ∧ s.clockSample = .beforeEpoch then .clockBeforeEpoch else .ok) := by
  rw [expectedCode, checkError_eq_ite, textError_eq_ite]
  cases hi : readsText i with
  | true =>
    simp only [readsClock_of_readsText hi, true_and, Bool.false_eq_true, false_and, if_true, if_false]
    split_ifs <;> rfl
  | false =>
    simp only [Bool.false_eq_true, false_and, if_false]
    split_ifs <;> rfl

/-- Every command reports the first failing check of R147. -/
theorem exec_ecode {i : Instr} {s t : State} (h : exec i s = .next t) : t.ecode = expectedCode i s := by
  rw [expectedCode_eq]
  rcases exec_cases h with ⟨e, hc, rfl⟩ | ⟨e, hc, htext, he, rfl⟩ | ⟨hc, hclock, hclk, rfl⟩ | ⟨u, hc, hu, rfl⟩ <;>
    rw [hc]
  · rfl
  · rw [Option.getD_none, if_pos htext, he]; rfl
  · have htext : ¬ readsText i = true := fun h => by simp [readsClock_of_readsText h] at hclock
    rw [Option.getD_none, if_neg htext, if_pos ⟨hclock, hclk⟩]; rfl
  · rw [Option.getD_none]
    cases i with
    | validate => obtain ⟨ht, -⟩ := hu; simp [readsText, ht]
    | decode => obtain ⟨ht, -⟩ := hu; simp [readsText, ht]
    | tstep => obtain ⟨c, hsecs, -⟩ := hu; simp [readsText, hsecs]
    | totp k => obtain ⟨c, hsecs, -⟩ := hu; simp [readsText, hsecs]
    | _ => rfl

/-- Settles O31: an illegal word by the engine's step of O2, and a command by `exec_ecode`. -/
theorem firstFailingCheckIsReported : Obligations.FirstFailingCheckIsReported := by
  obtain ⟨-, -, hillegal⟩ := legalWordsDecodeAndOthersAreIllegal
  refine ⟨fun s t hd h => ?_, fun i s t h => exec_ecode h⟩
  rw [hillegal s hd] at h
  cases h; rfl

/-! ### The fatal fault -/

/-- STATUS's low byte after the fault: ECODE 15, FAULT, ERR and DONE set, BUSY clear (R155). -/
theorem statusBits_fault (kvalid ovr : Bool) :
    (statusBits kvalid ovr .clockBeforeEpoch true true true false).toNat % 256 = 0xFE := by
  revert kvalid ovr; decide

/-- Settles O17: the checks pass, so the sample is taken and is the fault. -/
theorem clockBeforeEpochFaults : Obligations.ClockBeforeEpochFaults := by
  intro s hclk h1 h2
  refine ⟨_, rfl, exec_of_beforeEpoch rfl (stepError_eq_none.2 ⟨h1, h2⟩) hclk, fun k hk d1 d2 => ?_,
    statusBits_fault s.kvalid s.ovr⟩
  exact exec_of_beforeEpoch rfl (checkError_totp_eq_none.2 ⟨hk, ⟨h1, h2⟩, d1, d2⟩) hclk

/-! ### FAULTED -/

/-- A stored host write neither reads nor changes SEQ (R66). -/
theorem storeSlot_withSeq (s : State) (q : SeqState) (off : Offset) (v : Word) :
    State.storeSlot { s with seq := q } off v = { s.storeSlot off v with seq := q } := by
  unfold State.storeSlot
  split <;> rfl

/-- Of the registers only STATUS shows SEQ (R24). -/
theorem slotValue_withSeq (s : State) (q : SeqState) {off : Offset} (hst : slotOf off ≠ .status) :
    State.slotValue { s with seq := q } off = s.slotValue off := by
  unfold State.slotValue
  split
  case h_3 h => exact absurd h hst
  all_goals rfl

/-- In FAULTED a CMD write is dropped and sets no OVR (R156). -/
theorem memWrite_cmd_faulted {s : State} (v : Word) (hf : s.seq = .faulted) :
    memWrite cmdOffset v s = ⟨.ok, s⟩ := by
  simp [memWrite, cmdOffset, aligned, slotOf, hf]

/-- A write to any offset but CMD acts the same in IDLE and in FAULTED (R66, R156). -/
theorem memWrite_withSeq {s : State} {q : SeqState} {off : Offset} (v : Word) (hs : s.seq ≠ .busy) (hq : q ≠ .busy)
    (hoff : off ≠ cmdOffset) :
    (memWrite off v { s with seq := q }).after = { (memWrite off v s).after with seq := q } := by
  have hcmd : slotOf off ≠ .cmd := fun h => hoff (slotOf_eq_cmd.1 h)
  by_cases hal : aligned off = false
  · rw [memWrite_misaligned v s hal, memWrite_misaligned v _ hal]
  · have hal : off.toNat % 4 = 0 := aligned_iff.1 (by simpa using hal)
    by_cases hst : slotOf off = .status
    · obtain rfl := slotOf_eq_status.1 hst
      change (if v.getLsbD 8 then _ else _) = { (if v.getLsbD 8 then _ else _ : State) with seq := q }
      split <;> rfl
    · rw [memWrite_notBusy v hs hal hst hcmd, memWrite_notBusy (s := { s with seq := q }) v hq hal hst hcmd,
        storeSlot_withSeq]

/-- In FAULTED a read of any offset but STATUS acts as on the IDLE block, and changes nothing (R156). -/
theorem memRead_faulted {s : State} {off : Offset} (hf : s.seq = .faulted) (hoff : off ≠ 0x008#10) :
    (memRead off s).after = s ∧ (memRead off s).data = (memRead off { s with seq := .idle }).data := by
  by_cases hal : aligned off = false
  · rw [memRead_misaligned s hal, memRead_misaligned _ hal]
    exact ⟨rfl, rfl⟩
  · have hal : off.toNat % 4 = 0 := aligned_iff.1 (by simpa using hal)
    have hst : slotOf off ≠ .status := fun h => hoff (slotOf_eq_status.1 h)
    rw [memRead_notBusy (by rw [hf]; decide) hal, memRead_notBusy (by simp) hal, slotValue_withSeq s .idle hst]
    exact ⟨rfl, rfl⟩

/-- An action in FAULTED keeps SEQ, DONE, ERR and ECODE (R156). -/
theorem action_faulted {a : Action} {s t : State} (he : ActionEffect s a t) (hf : s.seq = .faulted) :
    t.seq = .faulted ∧ t.done = s.done ∧ t.err = s.err ∧ t.ecode = s.ecode := by
  cases he with
  | outside => exact ⟨hf, rfl, rfl, rfl⟩
  | clearsOvr => exact ⟨hf, rfl, rfl, rfl⟩
  | dropped _ _ _ _ hb => rw [hf] at hb; cases hb
  | accepted _ hi => rw [hf] at hi; cases hi
  | stored off v =>
    obtain ⟨_, _, _, _, _, _, _, h, -⟩ := storeSlot_frame s.spend off v
    rw [h]
    exact ⟨hf, rfl, rfl, rfl⟩

/-- Settles O19: the accesses go as in IDLE, and of the effects a step can have, completion needs BUSY. -/
theorem onlyResetLeavesFaulted : Obligations.OnlyResetLeavesFaulted := by
  intro s hf
  have hnb : s.seq ≠ .busy := by rw [hf]; decide
  refine ⟨fun v => memWrite_cmd_faulted v hf, fun off v hoff => ?_,
    fun off hoff => memRead_faulted hf hoff, fun t h => ?_⟩
  · have hself : s = { s with seq := .faulted } := by rw [← hf]
    conv_lhs => rw [hself]
    exact memWrite_withSeq (s := { s with seq := .idle }) v SeqState.noConfusion SeqState.noConfusion hoff
  · cases step_effect h with
    | reset rest ha => exact .inr ⟨rest, ha⟩
    | completed _ _ hb => exact absurd hb hnb
    | illegal hb => exact absurd hb hnb
    | acted a rest _ ha he => exact .inl (action_faulted (s := s.withActions rest) he hf)
    | quiet => exact .inl ⟨hf, rfl, rfl, rfl⟩

/-! ### A block with nothing to do -/

/-- Settles O8: of the turns of `step_cases` only the quiet one is left. -/
theorem quietBlockStaysAsItIs : Obligations.QuietBlockStaysAsItIs := by
  intro s hb hnil
  rcases step_cases s with ⟨rest, ha, -⟩ | ⟨hbusy, -⟩ | ⟨a, rest, ha, -⟩ | ⟨-, -, h⟩
  · rw [hnil] at ha; cases ha
  · exact absurd hbusy hb
  · rw [hnil] at ha; cases ha
  · exact h

end Sys2Proof.Machine

/-! ## Acceptance, completion, the reads while BUSY, and reset -/

namespace Sys2Proof.Machine

/-! ### Host accesses while BUSY -/

/-- A host write to a BUSY block reaches OVR only (R66, R178). -/
theorem memWrite_after_busy {s : State} (off : Offset) (v : Word) (hb : s.seq = .busy) :
    ∃ o, (memWrite off v s).after = { s with ovr := o } := by
  rcases memWrite_cases off v s with ⟨-, h⟩ | ⟨-, -, h⟩ | ⟨-, -, -, h⟩ | ⟨-, -, hq, -⟩ | ⟨-, -, hq, -⟩ | ⟨-, -, -, hq, -⟩
  · rw [h]; exact ⟨s.ovr, rfl⟩
  · rw [h]; dsimp only; split
    · exact ⟨false, rfl⟩
    · exact ⟨s.ovr, rfl⟩
  · rw [h]; exact ⟨true, rfl⟩
  · rw [hb] at hq; cases hq
  · rw [hb] at hq; cases hq
  · exact absurd hb hq

/-- A host read changes the count of free values only (R56). -/
theorem memRead_after (off : Offset) (s : State) : ∃ n, (memRead off s).after = { s with draws := n } := by
  rcases memRead_cases off s with ⟨-, h⟩ | ⟨-, -, -, h⟩ | ⟨-, -, h⟩ <;> rw [h]
  · exact ⟨s.draws, rfl⟩
  · exact ⟨s.draws + 1, rfl⟩
  · exact ⟨s.draws, rfl⟩

/-- An aligned access under a BUSY command is answered and counted against its LATENCY; it is no longer pending, or it is a
WAIT that goes on (R79, R177). -/
theorem step_access_busy {s : State} {a : Action} {rest : List Action} (ha : s.actions = a :: rest) (hb : s.seq = .busy)
    (hd : s.delay ≠ 0) (hacc : a.alignedAccess = true) :
    ∃ t, step s = .next t ∧ t.seq = .busy ∧ t.delay = s.delay - 1 ∧ (t.actions = rest ∨ t.actions = s.actions) := by
  have hturn : ¬ (s.seq = .busy ∧ s.delay = 0) := fun h => hd h.2
  cases a with
  | write off v =>
    obtain ⟨o, h⟩ := memWrite_after_busy (s := (s.withActions rest).spend) off v hb
    refine ⟨_, step_write ha hturn (of_decide_eq_true hacc), ?_⟩
    rw [h]
    exact ⟨hb, rfl, .inl rfl⟩
  | read off =>
    obtain ⟨n, h⟩ := memRead_after off (s.withActions rest).spend
    refine ⟨_, step_read ha hturn (of_decide_eq_true hacc), ?_⟩
    rw [h]
    exact ⟨hb, rfl, .inl rfl⟩
  | wait => exact ⟨_, step_wait_busy ha hb hd, hb, rfl, .inr rfl⟩
  | clk => cases hacc
  | latency => cases hacc
  | rst => cases hacc

/-! ### Completion -/

/-- The engine's step completes the command, a legal one or not (R176). -/
theorem engineStep_leaves_busy (s : State) : ∃ t, engineStep s = .next t ∧ t.seq ≠ .busy := by
  rcases engineStep_cases s with ⟨i, -, h⟩ | ⟨r, -, h⟩
  · obtain ⟨t, ht⟩ := exec_next i s
    exact ⟨t, h.trans ht, exec_seq ht⟩
  · exact ⟨_, h, by simp⟩

/-- A step of a BUSY block that meets no bus error leaves BUSY, or uses up an access that is due or an action (R177). -/
theorem step_busy_progress {s : State} (hb : s.seq = .busy) (hal : ∀ a ∈ s.actions, a.misaligned = false) :
    ∃ t, step s = .next t ∧ (t.seq ≠ .busy ∨
      t.seq = .busy ∧ t.delay + t.actions.length < s.delay + s.actions.length ∧ t.actions ⊆ s.actions) := by
  rcases step_cases s with ⟨rest, -, hs⟩ | ⟨-, -, -, hs⟩ | ⟨a, rest, ha, hr, hturn, hs⟩ | ⟨hq, -⟩
  · exact ⟨_, hs, .inl (by simp)⟩
  · obtain ⟨t, ht, hq⟩ := engineStep_leaves_busy s
    exact ⟨t, hs.trans ht, .inl hq⟩
  · have hd : s.delay ≠ 0 := fun h => hturn ⟨hb, h⟩
    have hlen : s.actions.length = rest.length + 1 := by rw [ha]; rfl
    have hsub : rest ⊆ s.actions := ha ▸ List.subset_cons_self a rest
    have hmis : a.misaligned = false := hal a (by simp [ha])
    by_cases hacc : a.alignedAccess = true
    · obtain ⟨t, ht, hq, hdelay, hacts | hacts⟩ := step_access_busy ha hb hd hacc
      · exact ⟨t, ht, .inr ⟨hq, by rw [hacts]; omega, by rwa [hacts]⟩⟩
      · exact ⟨t, ht, .inr ⟨hq, by rw [hacts]; omega, hacts ▸ List.Subset.refl _⟩⟩
    · have premise : s.delay + rest.length < s.delay + s.actions.length := by omega
      cases a with
      | write off v => exact absurd (by simpa [Action.misaligned, Action.alignedAccess] using hmis) hacc
      | read off => exact absurd (by simpa [Action.misaligned, Action.alignedAccess] using hmis) hacc
      | wait => exact absurd rfl hacc
      | clk r => exact ⟨_, hs, .inr ⟨hb, premise, hsub⟩⟩
      | latency n => exact ⟨_, hs, .inr ⟨hb, premise, hsub⟩⟩
      | rst => exact absurd rfl hr
  · exact absurd hb hq

/-- A BUSY block that meets no bus error leaves BUSY: the accesses due and the actions pending bound its steps (R177). -/
theorem run_leaves_busy {s : State} (hb : s.seq = .busy) (hal : ∀ a ∈ s.actions, a.misaligned = false) :
    ∃ k t, k ≤ s.delay + s.actions.length + 1 ∧ Host.Core.run Sys2Proof.core k s = .next t ∧ t.seq ≠ .busy := by
  obtain ⟨t, hstep, hq | ⟨hq, hlt, hsub⟩⟩ := step_busy_progress hb hal
  · exact ⟨1, t, by omega, run_succ (M := Sys2Proof.core) (n := 0) hstep, hq⟩
  · obtain ⟨k, u, hk, hrun, hu⟩ := run_leaves_busy hq fun a ha => hal a (hsub ha)
    exact ⟨k + 1, u, by omega, (run_succ (M := Sys2Proof.core) hstep).trans hrun, hu⟩
  termination_by s.delay + s.actions.length

/-- While accesses are due and aligned accesses are pending, `k` of them leave the block BUSY with `k` fewer due (R177). -/
theorem run_accesses_busy (k : Nat) {s : State} (hb : s.seq = .busy) (hk : k ≤ s.delay)
    (hlen : s.delay ≤ s.actions.length) (hacc : ∀ a ∈ s.actions, a.alignedAccess = true) :
    ∃ t : State, Host.Core.run Sys2Proof.core k s = .next t ∧ t.seq = .busy ∧ t.delay = s.delay - k ∧
      ∀ a ∈ t.actions, a.alignedAccess = true := by
  induction k generalizing s with
  | zero => exact ⟨s, rfl, hb, rfl, hacc⟩
  | succ k ih =>
    obtain ⟨a, rest, ha⟩ := List.exists_cons_of_length_pos (l := s.actions) (by omega)
    obtain ⟨t, hstep, hq, hdelay, hacts⟩ := step_access_busy ha hb (by omega) (hacc a (by simp [ha]))
    have hlen' : s.actions.length = rest.length + 1 := by rw [ha]; rfl
    have hsub : t.actions ⊆ s.actions ∧ t.delay ≤ t.actions.length := by
      rcases hacts with h | h <;> rw [h]
      · exact ⟨ha ▸ List.subset_cons_self a rest, by omega⟩
      · exact ⟨List.Subset.refl _, by omega⟩
    obtain ⟨u, hrun, hu, hud, huacc⟩ := ih hq (by omega) hsub.2 fun b hb => hacc b (hsub.1 hb)
    exact ⟨u, (run_succ (M := Sys2Proof.core) hstep).trans hrun, hu, by omega, huacc⟩

/-- Settles O7: by the measure of `run_leaves_busy`; and under a premise the delay is `n`, each access counts it down by one,
and at 0 it is the engine's turn. -/
theorem completionIsGuaranteed : Obligations.CompletionIsGuaranteed := by
  refine ⟨fun s hb hal => run_leaves_busy hb hal, fun s w n hi hlat hlen hacc => ?_⟩
  rw [show 0x004#10 = cmdOffset from rfl, memWrite_cmd_idle w hi]
  have hdelay : (s.accept w).delay = n := by rw [accept_delay, hlat]; rfl
  have run (k : Nat) (hk : k ≤ n) := run_accesses_busy k (accept_seq s w) (by omega) (hdelay ▸ hlen) hacc
  refine ⟨hdelay, fun k hk => ?_, ?_⟩
  · obtain ⟨t, hrun, hq, -⟩ := run k hk
    exact ⟨t, hrun, hq⟩
  · obtain ⟨t, hrun, hq, hd, hacc'⟩ := run n le_rfl
    have hrst (rest : List Action) : t.actions ≠ .rst :: rest := fun h => by
      have := hacc' .rst (by simp [h])
      cases this
    obtain ⟨u, hu, hnb⟩ := engineStep_leaves_busy t
    have hstep : step t = .next u := (step_engine hq (.inl (by omega)) hrst).trans hu
    exact ⟨u, (run_add 1 hrun).trans (run_succ (M := Sys2Proof.core) (n := 0) hstep), hnb⟩

/-! ### What reads while BUSY give -/

/-- A read of a register that is no result register gives the stored value while BUSY too (R65, R179). -/
theorem memRead_stored (s : State) {off : Offset} (hal : off.toNat % 4 = 0) (hres : (slotOf off).isResult = false) :
    memRead off s = ⟨.ok, s.slotValue off, s⟩ := by
  simp [memRead, aligned_iff.2 hal, hres]

/-- A read of a result register while BUSY gives a fresh free word (R65, R179). -/
theorem memRead_result_busy {s : State} {off : Offset} (hb : s.seq = .busy) (hal : off.toNat % 4 = 0)
    (hres : (slotOf off).isResult = true) :
    memRead off s = ⟨.ok, Config.freeWord s.draws, { s with draws := s.draws + 1 }⟩ := by
  simp [memRead, aligned_iff.2 hal, hb, hres]

/-- Settles O22: `isResult_iff` names the result registers, and the other offsets read their slot's value. -/
theorem readsWhileBusy : Obligations.ReadsWhileBusy := by
  intro s off hb hal
  refine ⟨fun h => memRead_result_busy hb hal ((isResult_iff hal).2 h), ?_, ?_, ?_, ?_, ?_, ?_, ?inBuf⟩
  case inBuf =>
    intro hlo hhi
    have hslot : slotOf off = .inBuf := slotOf_eq_inBuf.2 ⟨hlo, hhi⟩
    have hread := memRead_stored s hal (by rw [hslot]; rfl)
    rw [slotValue_buffer s hlo (by omega)] at hread
    exact ⟨s.bufWord off.toNat, hread, fun j hj => laneByte_bufWord s off.toNat hj⟩
  all_goals rintro rfl; exact memRead_stored s hal rfl

/-! ### Acceptance -/

/-- Settles O4: the turn is the engine's, and its completion is the command's execution. -/
theorem stepRunsTheDecodedCommand : Obligations.StepRunsTheDecodedCommand := by
  intro s i hb hdec hdue hrst
  rw [step_engine hb hdue hrst, engineStep_of_decode hdec]

/-- STATUS's low byte after an acceptance: BUSY alone (R175). -/
theorem statusBits_accepted (kvalid ovr : Bool) :
    (statusBits kvalid ovr .ok false false false true).toNat % 256 = 1 := by
  revert kvalid ovr; decide

/-- Settles O6: the write is the acceptance, and the engine's step of O2 completes an illegal word. -/
theorem commandWriteIsAcceptedUnchecked : Obligations.CommandWriteIsAcceptedUnchecked := by
  intro s w hi
  obtain ⟨-, -, hillegal⟩ := legalWordsDecodeAndOthersAreIllegal
  exact ⟨s.accept w, memWrite_cmd_idle w hi, rfl, statusBits_accepted s.kvalid s.ovr,
    fun hdec => ⟨_, hillegal (s.accept w) hdec, rfl, rfl⟩⟩

/-! ### Reset -/

/-- Settles O14: the invariant does not speak of the fills, in which a reset block and `State.reset` differ. -/
theorem resetStateHasTheInvariant : Obligations.ResetStateHasTheInvariant := applyReset_inv State.reset

/-- Every byte of a buffer is free after reset, from the fill that the reset made (R166, R168). -/
theorem applyReset_byteAt (s : State) (a : Nat) : s.applyReset.byteAt a = Config.freeByte s.draws a := by
  simp [State.byteAt, Memory.lookup]

/-- Settles O16: of the turns of `step_cases` only reset has `rst` at the front. -/
theorem resetGoesFirstFromEveryState : Obligations.ResetGoesFirstFromEveryState := by
  intro s rest ha
  rcases step_cases s with ⟨rest', ha', hs⟩ | ⟨-, -, hrst, -⟩ | ⟨a, rest', ha', hr, -⟩ | ⟨-, hnil, -⟩
  · obtain ⟨-, rfl⟩ := List.cons.inj (ha.symm.trans ha')
    exact ⟨_, hs, rfl, applyReset_byteAt (s.withActions rest)⟩
  · exact absurd ha (hrst rest)
  · exact absurd (List.cons.inj (ha'.symm.trans ha)).1 hr
  · rw [hnil] at ha; cases ha

end Sys2Proof.Machine
